-- ==== Sys2Proof/Word.lean ====
section
/-! DEFINITION. The words of the 1-Wire master core: a byte, a command word (R90), a host register
word (R61) and a 64-bit device address (R105). -/

namespace Sys2Proof

/-- A byte: a command operand, `DATA`, `CRC_ACC`, one byte of an address. -/
abbrev Byte := BitVec 8

/-- A command word, format `CMD16` (R90). -/
abbrev CommandWord := BitVec 16

/-- A word of the host register space (R61). -/
abbrev HostWord := BitVec 32

/-- A DeviceAddress (R105): family code in bits 7:0, serial in 55:8, CRC byte in 63:56. -/
abbrev Address := BitVec 64

end Sys2Proof
end

