-- ==== Sys2Proof/Syntax.lean ====
section
/-! DEFINITION. The twelve commands of the opcode map (R92), one constructor a row. An operand is the
eight bits `operand[7:0]` as they stand (R91). -/

namespace Sys2Proof

/-- A command of the core (R92). -/
inductive Instr where
  /-- RESET, 0x0100 (R140). -/
  | reset
  /-- WRITE_BIT, 0x0200 | b: the bit is `operand[0]`, and `operand[7:1]` must be 0 (R91, R143). -/
  | writeBit (operand : Byte)
  /-- READ_BIT, 0x0300 (R147). -/
  | readBit
  /-- WRITE_BYTE, 0x0400 | v (R160). -/
  | writeByte (v : Byte)
  /-- READ_BYTE, 0x0500 (R163). -/
  | readByte
  /-- SEARCH, 0x0600 (R170). -/
  | search
  /-- READ_ADDRESS, 0x0700 (R200). -/
  | readAddress
  /-- SELECT, 0x0800 | i (R206). -/
  | select (index : Byte)
  /-- CRC_INIT, 0x0900 (R130). -/
  | crcInit
  /-- CRC_BYTE, 0x0A00 | v (R131). -/
  | crcByte (v : Byte)
  /-- CRC_CHECK, 0x0B00 | v (R132). -/
  | crcCheck (v : Byte)
  /-- CRC_ADDR, 0x0C00 | i (R133). -/
  | crcAddr (index : Byte)
  deriving DecidableEq, Repr

end Sys2Proof
end

