-- ==== Sys2Proof/WellFormed.lean ====
section
/-! DEFINITION. Which terms of `Instr` are commands: the one constraint the opcode map puts on an
operand that the syntax holds is that `operand[7:1]` of WRITE_BIT is 0 (R91). Bytes and indices are
legal at all 256 values. -/

namespace Sys2Proof

/-- The operand constraints of R91. -/
def Instr.wellFormed : Instr → Bool
  | .writeBit operand => operand >>> 1 == 0#8
  | .reset => true
  | .readBit => true
  | .writeByte _ => true
  | .readByte => true
  | .search => true
  | .readAddress => true
  | .select _ => true
  | .crcInit => true
  | .crcByte _ => true
  | .crcCheck _ => true
  | .crcAddr _ => true

end Sys2Proof
end

