-- ==== Sys2Proof/Decode.lean ====
section
/-! DEFINITION. The decoder of command words, total on all 65536 of them and rejecting the illegal
ones by name (R92, R93), the opcode map as a table of rows, and the encoder. -/

namespace Sys2Proof

/-- Why a 16-bit word is illegal: the three cases R93 lists. -/
inductive IllegalWord where
  /-- "opcodes 0x00 and 0x0D to 0xFF with any operand". -/
  | unknownOpcode
  /-- "opcodes 0x01, 0x03, 0x05, 0x06, 0x07, 0x09 with a non-zero operand". -/
  | operandNotZero
  /-- "opcode 0x02 with `operand[7:1] != 0`". -/
  | bitOperandTooWide
  deriving DecidableEq, Repr

/-- `opcode`, bits [15:8] of a command word (R90). -/
def opcodeField (w : CommandWord) : Byte := w.extractLsb' 8 8

/-- `operand`, bits [7:0] of a command word (R90). -/
def operandField (w : CommandWord) : Byte := w.extractLsb' 0 8

/-- A command that takes no operand: "must be 0 for opcodes that take no operand" (R90). -/
def noOperand (operand : Byte) (i : Instr) : Except IllegalWord Instr :=
  if operand = 0#8 then .ok i else .error .operandNotZero

/-- WRITE_BIT's operand: "`operand[7:1]` must be 0" (R91). -/
def bitOperandOnly (operand : Byte) : Except IllegalWord Instr :=
  if operand >>> 1 = 0#8 then .ok (.writeBit operand) else .error .bitOperandTooWide

/-- The command a 16-bit word stands for (R92), or why it is illegal (R93). -/
def decode (w : CommandWord) : Except IllegalWord Instr :=
  match (opcodeField w).toNat with
  | 0x01 => noOperand (operandField w) .reset
  | 0x02 => bitOperandOnly (operandField w)
  | 0x03 => noOperand (operandField w) .readBit
  | 0x04 => .ok (.writeByte (operandField w))
  | 0x05 => noOperand (operandField w) .readByte
  | 0x06 => noOperand (operandField w) .search
  | 0x07 => noOperand (operandField w) .readAddress
  | 0x08 => .ok (.select (operandField w))
  | 0x09 => noOperand (operandField w) .crcInit
  | 0x0A => .ok (.crcByte (operandField w))
  | 0x0B => .ok (.crcCheck (operandField w))
  | 0x0C => .ok (.crcAddr (operandField w))
  | _ => .error .unknownOpcode

/-- The opcode number of each command (R92). -/
def Instr.opcode : Instr → Byte
  | .reset => 0x01
  | .writeBit _ => 0x02
  | .readBit => 0x03
  | .writeByte _ => 0x04
  | .readByte => 0x05
  | .search => 0x06
  | .readAddress => 0x07
  | .select _ => 0x08
  | .crcInit => 0x09
  | .crcByte _ => 0x0A
  | .crcCheck _ => 0x0B
  | .crcAddr _ => 0x0C

/-- The operand byte of each command: 0 where it takes none (R90). -/
def Instr.operand : Instr → Byte
  | .writeBit operand => operand
  | .writeByte v => v
  | .select index => index
  | .crcByte v => v
  | .crcCheck v => v
  | .crcAddr index => index
  | .reset => 0
  | .readBit => 0
  | .readByte => 0
  | .search => 0
  | .readAddress => 0
  | .crcInit => 0

/-- The word of a command: opcode in [15:8], operand in [7:0] (R90). -/
def encode (i : Instr) : CommandWord := i.opcode ++ i.operand

/-- A row of the opcode map: a word selects it when `w & mask == match` (R92). -/
structure OpcodeRow where
  mnemonic : String
  pattern : CommandWord
  mask : CommandWord
  deriving DecidableEq, Repr

/-- The twelve rows of R92's table. -/
def opcodeRows : List OpcodeRow :=
  [⟨"RESET", 0x0100, 0xFFFF⟩, ⟨"WRITE_BIT", 0x0200, 0xFFFE⟩, ⟨"READ_BIT", 0x0300, 0xFFFF⟩,
   ⟨"WRITE_BYTE", 0x0400, 0xFF00⟩, ⟨"READ_BYTE", 0x0500, 0xFFFF⟩, ⟨"SEARCH", 0x0600, 0xFFFF⟩,
   ⟨"READ_ADDRESS", 0x0700, 0xFFFF⟩, ⟨"SELECT", 0x0800, 0xFF00⟩, ⟨"CRC_INIT", 0x0900, 0xFFFF⟩,
   ⟨"CRC_BYTE", 0x0A00, 0xFF00⟩, ⟨"CRC_CHECK", 0x0B00, 0xFF00⟩, ⟨"CRC_ADDR", 0x0C00, 0xFF00⟩]

/-- A word selects a row (R92). -/
def OpcodeRow.selectedBy (r : OpcodeRow) (w : CommandWord) : Bool := w &&& r.mask == r.pattern

/-- The mnemonic of each command, as R92 spells it. -/
def Instr.mnemonic : Instr → String
  | .reset => "RESET"
  | .writeBit _ => "WRITE_BIT"
  | .readBit => "READ_BIT"
  | .writeByte _ => "WRITE_BYTE"
  | .readByte => "READ_BYTE"
  | .search => "SEARCH"
  | .readAddress => "READ_ADDRESS"
  | .select _ => "SELECT"
  | .crcInit => "CRC_INIT"
  | .crcByte _ => "CRC_BYTE"
  | .crcCheck _ => "CRC_CHECK"
  | .crcAddr _ => "CRC_ADDR"

/-- The command word an instruction of `nbits` bits with the value `w` is: the bits at and above
`nbits` are 0, and a command word has 16 bits (R64: bits [31:16] of a `CMD` write are ignored). -/
def tableWord (nbits w : Nat) : CommandWord := BitVec.ofNat 16 (w % 2 ^ nbits)

/-- What the decoder reads from a row's word, its bits numbered as the opcode table numbers them. -/
def decodeTableWord (nbits w : Nat) : Option Instr :=
  match decode (tableWord nbits w) with
  | .ok i => some i
  | .error _ => none

end Sys2Proof
end

