-- ==== Sys2Proof/Config.lean ====
section
/-! DEFINITION. What an implementation fixes (the capacity of the registry a fresh core has) and the
free values: what the line carries and what an unspecified read returns.

The open parameters TICK_TOL, CLK_PER_US, the host bus protocol and the base address have no entry
here: R9 says that no rule reads them. -/

namespace Sys2Proof.Config

/-- The level the line carries at the `k`-th `Sample()`, where the state's own list of answers has run
out (R10, U2: the oracle). No body: nothing can be proved of a value of it (log entry 2). -/
opaque lineLevel : Nat → Bool

/-- The `k`-th free word: what a host read of an unspecified value returns (R67, R68, U7, U9).
No body: nothing can be proved of a value of it (log entry 3). -/
opaque freeWord : Nat → HostWord

/-- REG_DEPTH of the core that `State.reset` describes (R9: "A model may take REG_DEPTH = 256").
Every meaning reads the field `regDepth` of the state, not this constant (log entry 4). -/
def resetRegDepth : Nat := 256

end Sys2Proof.Config
end

