-- ==== Sys2Proof/Machine/State.lean ====
section
/-! DEFINITION. The state of the 1-Wire master core (10_state.md R20 to R41), what stands around it as
plain data (the host's inputs, the line's answers, the pin trace), its value after reset (R42), and the
reasons a step can stop. -/

namespace Sys2Proof.Machine

/-- One event of the pin trace (R110). -/
inductive PinEvent where
  /-- `L`: the core starts driving low. -/
  | L
  /-- `Z`: the core releases the line. -/
  | Z
  /-- `W(n)`: n microseconds pass with the pin unchanged. -/
  | W (n : Nat)
  /-- `S(b)`: the core samples the line and the oracle answers `b`. -/
  | S (b : Bool)
  deriving DecidableEq, Repr

/-- `PHASE` of the sequencer position (R40). DESIGN CHOICE (log entry 8): a running command is never in
`done`; R40 names the phase and does not say when it is entered. -/
inductive Phase where
  | resetPulse
  | cmdByte
  | bits
  | done
  deriving DecidableEq, Repr

/-- `OP`, `PHASE` and `SLOT` of the sequencer position (R40); `BITPOS` and `BITIDX` are fields of
`State` (R37, R39). `OP` is `none` for IDLE. -/
structure Seq where
  op : Option Instr
  phase : Phase
  slot : Nat
  deriving DecidableEq, Repr

/-- IDLE (R40, R42): `OP` is none. DESIGN CHOICE (log entry 8): `PHASE` is DONE and `SLOT` is 0; R40 and
R42 give neither while idle. -/
def Seq.idle : Seq := { op := none, phase := .done, slot := 0 }

/-- What the host, the platform and the passing of time do to the core next (log entry 1). -/
inductive HostInput where
  /-- `MemWrite(addr, n, v)` (R63). At offset 0 while idle it is a command issue, and the command is
  executed to its end (R64). -/
  | write (addr n : Nat) (v : HostWord)
  /-- `MemRead(addr, n)` (R62). -/
  | read (addr n : Nat)
  /-- `MemWrite(0x00, 4, v)` by a host that goes on at once: the command is accepted and `BUSY` is 1
  (R28, R64); the sequencer then moves by `run` and by steps without an input. -/
  | post (v : HostWord)
  /-- The sequencer makes `n` small steps; idle time while no command runs (R286). -/
  | run (n : Nat)
  /-- The core's reset input is asserted and released (R270, R271). -/
  | coreReset
  deriving DecidableEq, Repr

/-- Why a step stops with a fault. No instruction's meaning faults. -/
inductive Fault where
  /-- The sequencer reached a `Sample()` with `DQ_OE = 1`: "legal only while `DQ_OE = 0`" (00_scope.md
  section 7). Raised by `seqTick` only, in states no run reaches. Safe: the model stops. -/
  | sampleWhileDriving
  /-- `SEQ` names no primitive. Raised by `seqTick` only, in states no run reaches. Safe: the model
  stops. -/
  | sequencerLost
  deriving DecidableEq, Repr

/-- Why a step refuses. -/
inductive Refusal where
  /-- Raised by an arm of `exec` for an instruction without a meaning. Safe: the model stops. No arm
  uses it. -/
  | notModelled (mnemonic : String)
  /-- A host access that is not one aligned 32-bit word: "Narrower, wider or misaligned accesses are
  not defined by this spec; a model refuses them" (R66, U13). Raised by `hostRead` and `hostWrite`.
  Safe: the model stops. -/
  | accessNotAlignedWord
  /-- A host access at an offset above 0x1C: "not part of the core" (R61, U13). Raised by `hostRead`
  and `hostWrite`. Safe: the model stops. -/
  | accessOutsideCore
  deriving DecidableEq, Repr

/-- The whole state (R20), with the model's own fields after the spec's. -/
@[ext]
structure State where
  /-- `REG[0 .. REG_COUNT-1]`, entry 0 first (R21, R23). `REG_COUNT` is its length (R22); entries at or
  beyond `REG_COUNT` are unspecified and are not stored (U7, log entry 5). -/
  registry : List Address
  /-- `DQ_OE`: the core drives the line low (R31). -/
  dqOe : Bool
  /-- `DATA` (R24). -/
  data : Byte
  /-- `CRC_ACC` (R25). -/
  crcAcc : Byte
  /-- `CRC_VALID` (R26). -/
  crcValid : Bool
  /-- `ERR` (R27). -/
  err : BitVec 3
  /-- `BUSY` (R28). -/
  busy : Bool
  /-- `OVR` (R29). -/
  ovr : Bool
  /-- `REG_INDEX` (R30). -/
  regIndex : Byte
  /-- `ROM`, the candidate address (R33). -/
  rom : Address
  /-- `LASTZERO` (R34), fork encoding of R36. -/
  lastZero : Nat
  /-- `LASTFORK` (R35), fork encoding of R36. -/
  lastFork : Nat
  /-- `BITPOS` (R37). -/
  bitPos : Nat
  /-- `ID_BIT` (R38). -/
  idBit : Bool
  /-- `CMP_BIT` (R38). -/
  cmpBit : Bool
  /-- `SHIFT` (R39). -/
  shift : Byte
  /-- `BITIDX` (R39). -/
  bitIdx : Nat
  /-- `TIMER` (R41): microseconds left of the running `Wait`. -/
  timer : Nat
  /-- `SEQ` without `BITPOS` and `BITIDX` (R40). -/
  seq : Seq
  /-- Model's own: the bit the last `Sample()` returned, the local `p` or `b` of R141 and R148
  (log entry 8). -/
  latch : Bool
  /-- Model's own: the parameter REG_DEPTH (R9, U15; log entry 4). -/
  regDepth : Nat
  /-- Model's own: the oracle's answers to come, next one first (R10; log entry 2). -/
  line : List Bool
  /-- Model's own: how many samples were taken (log entry 2). -/
  samples : Nat
  /-- Model's own: the pin trace, newest event first (R110; log entry 9). -/
  trace : List PinEvent
  /-- Model's own: what the host does next, next one first (log entry 1). -/
  inputs : List HostInput
  /-- Model's own: the word the host's last read returned (R62; log entry 12). -/
  hostData : HostWord
  /-- Model's own: how many host reads were made (log entry 3). -/
  freeReads : Nat
  deriving DecidableEq, Repr

/-- The state after core reset: the table of R42. Command-local state is unspecified there and is 0
here (log entry 6). -/
def State.reset : State :=
  { registry := [], dqOe := false
    data := 0, crcAcc := 0, crcValid := false, err := 0, busy := false, ovr := false, regIndex := 0
    rom := 0, lastZero := 0, lastFork := 0, bitPos := 0, idBit := false, cmpBit := false
    shift := 0, bitIdx := 0, timer := 0, seq := Seq.idle
    latch := false, regDepth := Config.resetRegDepth
    line := [], samples := 0, trace := [], inputs := [], hostData := 0, freeReads := 0 }

end Sys2Proof.Machine
end

