-- ==== Sys2Proof/Machine/Operands.lean ====
section
/-! DEFINITION. Every operand form of the commands (R91): a bit, a byte, a registry index; and the bits
and bytes of a 64-bit address (R71, R105). -/

namespace Sys2Proof.Machine

/-- The bit operand of WRITE_BIT: `operand[0]` (R91). -/
def bitOperand (operand : Byte) : Bool := operand.getLsbD 0

/-- `REG_COUNT`, the number of valid entries (R22). -/
def regCount (s : State) : Nat := s.registry.length

/-- `REG[i]` for an index operand `i`: `none` exactly when `i >= REG_COUNT` (R69). -/
def lookup (index : Byte) (s : State) : Option Address := s.registry[index.toNat]?

/-- Bit `p` of an address: bit 0 is the low bit of the family code (R71). -/
def bitAt (a : Address) (p : Nat) : Bool := a.getLsbD p

/-- `a[p] <- b`. -/
def setBit (a : Address) (p : Nat) (b : Bool) : Address :=
  if b then a ||| (1#64 <<< p) else a &&& ~~~(1#64 <<< p)

/-- `byte_k(a) = a[8k+7:8k]` (00_scope.md section 6). -/
def byteOf (a : Address) (k : Nat) : Byte := a.extractLsb' (8 * k) 8

/-- The family code of a DeviceAddress, `[7:0]` (R105). -/
def familyOf (a : Address) : Byte := a.extractLsb' 0 8

/-- The serial number of a DeviceAddress, `[55:8]` (R105). -/
def serialOf (a : Address) : BitVec 48 := a.extractLsb' 8 48

/-- The stored CRC byte of a DeviceAddress, `[63:56]` (R105). -/
def crcByteOf (a : Address) : Byte := a.extractLsb' 56 8

/-- Bytes 0 to 6 of an address, least significant first: what its CRC is computed over (R72, R124). -/
def lowBytes (a : Address) : List Byte :=
  [byteOf a 0, byteOf a 1, byteOf a 2, byteOf a 3, byteOf a 4, byteOf a 5, byteOf a 6]

/-- All eight bytes of an address, in the order they cross the wire (R71). -/
def allBytes (a : Address) : List Byte := lowBytes a ++ [byteOf a 7]

end Sys2Proof.Machine
end

