-- ==== Sys2Proof/Machine/Flags.lean ====
section
/-! DEFINITION. The flags: the error kinds and their codes (R240), the CRC-8 function and its `valid`
output (R120 to R126), and the two registers that pack flags for the host, STATUS and CRC (R61). -/

namespace Sys2Proof.Machine

/-- The error kinds (R240). -/
inductive ErrorKind where
  /-- A reset pulse sampled the line high, or a discovery pair read (1,1) (R241). -/
  | noPresence
  /-- The 64 bits READ_ADDRESS read fail their CRC check (R242). -/
  | addressCrcMismatch
  /-- Host software only: "no command of the core" raises it (R225, R240). -/
  | scratchpadCrcMismatch
  /-- The word matches no row of the opcode map (R243). -/
  | illegalCommand
  /-- SELECT or CRC_ADDR with an index at or beyond `REG_COUNT` (R244). -/
  | badIndex
  /-- A pass of SEARCH completed with the registry full (R245). -/
  | registryFull
  deriving DecidableEq, Repr

/-- The code in `ERR` (R240); 0 stands for success, 7 for nothing. -/
def ErrorKind.code : ErrorKind → BitVec 3
  | .noPresence => 1
  | .addressCrcMismatch => 2
  | .scratchpadCrcMismatch => 3
  | .illegalCommand => 4
  | .badIndex => 5
  | .registryFull => 6

/-- One bit step of the CRC: shift toward bit 0, feedback constant 0x8C (R123; log entry 16). -/
def crcBit (acc : Byte) (b : Bool) : Byte :=
  if acc.getLsbD 0 ^^ b then (acc >>> 1) ^^^ 0x8C#8 else acc >>> 1

/-- `crc8_update` in its bit-serial form: the bits of the byte in wire order (R123). -/
def crcUpdate (acc byte : Byte) : Byte :=
  (List.range 8).foldl (fun a k => crcBit a (byte.getLsbD k)) acc

/-- `T_LO` (R122). -/
def crcTableLow : List Byte :=
  [0x00, 0x5E, 0xBC, 0xE2, 0x61, 0x3F, 0xDD, 0x83, 0xC2, 0x9C, 0x7E, 0x20, 0xA3, 0xFD, 0x1F, 0x41]

/-- `T_HI` (R122). -/
def crcTableHigh : List Byte :=
  [0x00, 0x9D, 0x23, 0xBE, 0x46, 0xDB, 0x65, 0xF8, 0x8C, 0x11, 0xAF, 0x32, 0xCA, 0x57, 0xE9, 0x74]

/-- `crc8_update` in its table form (R121); no meaning calls it, R123 says the two are one function. -/
def crcUpdateTable (acc byte : Byte) : Byte :=
  let x := acc ^^^ byte
  crcTableLow.getD (x.extractLsb' 0 4).toNat 0 ^^^ crcTableHigh.getD (x.extractLsb' 4 4).toNat 0

/-- `crc8` of a byte sequence, index 0 first, from accumulator 0 (R124, R126). -/
def crc8 (bytes : List Byte) : Byte := bytes.foldl crcUpdate 0

/-- The `valid` output: the accumulator equals the stored CRC byte (R125). -/
def crcValidFor (bytes : List Byte) (stored : Byte) : Bool := crc8 bytes == stored

/-- `valid_address(a)` (R106). -/
def validAddress (a : Address) : Bool := crcValidFor (lowBytes a) (crcByteOf a)

/-- `STATUS = BUSY | OVR << 1 | ERR << 2`, bits above read 0 (R61). -/
def statusWord (s : State) : HostWord :=
  (0#27 : BitVec 27) ++ s.err ++ BitVec.ofBool s.ovr ++ BitVec.ofBool s.busy

/-- `CRC`: `CRC_ACC` in [7:0], `CRC_VALID` in bit 8, bits above read 0 (R61). -/
def crcWord (s : State) : HostWord :=
  (0#23 : BitVec 23) ++ BitVec.ofBool s.crcValid ++ s.crcAcc

end Sys2Proof.Machine
end

