-- ==== Sys2Proof/Machine/Ops.lean ====
section
/-! DEFINITION. The shared operations: the four pin primitives (00_scope.md section 7), the slots built of
them with their contractual timings (R141, R144, R145, R148), the byte transport (R161, R164), accepting
a command, ending it, and raising an error, which is the core's one form of exception (R246). There is
no return from an error (R250): the next accepted command clears `ERR`. -/

namespace Sys2Proof.Machine

/-- The pin primitives (R6, R110). -/
inductive Prim where
  | driveLow
  | release
  | wait (n : Nat)
  | sample
  deriving DecidableEq, Repr

/-- The level the line carries at the next sample: the next answer of the state's list, or a free
value once the list has run out (R10; log entry 2). -/
def nextLevel (s : State) : Bool :=
  match s.line with
  | b :: _ => b
  | [] => Config.lineLevel s.samples

/-- `DriveLow()`: the core pulls the line low. -/
def driveLow (s : State) : State := { s with dqOe := true, trace := .L :: s.trace }

/-- `Release()`: the pin is an input again. -/
def release (s : State) : State := { s with dqOe := false, trace := .Z :: s.trace }

/-- `Wait(n)`, all of it: `TIMER` has run down to 0 (R41). -/
def wait (n : Nat) (s : State) : State := { s with timer := 0, trace := .W n :: s.trace }

/-- `Sample()`: the returned bit stands in `latch`. -/
def sample (s : State) : State :=
  { s with latch := nextLevel s, line := s.line.tail, samples := s.samples + 1,
           trace := .S (nextLevel s) :: s.trace }

/-- What a primitive does to the state. -/
def Prim.apply (p : Prim) (s : State) : State :=
  match p with
  | .driveLow => Sys2Proof.Machine.driveLow s
  | .release => Sys2Proof.Machine.release s
  | .wait n => Sys2Proof.Machine.wait n s
  | .sample => Sys2Proof.Machine.sample s

/-- The primitives of `ResetPulse()` (R141). -/
def resetPrims : List Prim := [.driveLow, .wait 480, .release, .wait 70, .sample, .wait 410]

/-- The primitives of `WriteSlot(b)` (R144, R145). -/
def writePrims (b : Bool) : List Prim :=
  if b then [.driveLow, .wait 5, .release, .wait 60] else [.driveLow, .wait 60, .release, .wait 5]

/-- The primitives of `ReadSlot()` (R148). -/
def readPrims : List Prim := [.driveLow, .wait 3, .release, .wait 8, .sample, .wait 60]

/-- A list of primitives, in order. -/
def runPrims (ps : List Prim) (s : State) : State := ps.foldl (fun t p => p.apply t) s

/-- `ResetPulse()`; the returned bit stands in `latch`: 0 (low) is presence (R141, R142). -/
def resetPulse (s : State) : State := runPrims resetPrims s

/-- `WriteSlot(b)` (R144, R145). -/
def writeSlot (b : Bool) (s : State) : State := runPrims (writePrims b) s

/-- `ReadSlot()`; the returned bit stands in `latch` (R148). -/
def readSlot (s : State) : State := runPrims readPrims s

/-- `SHIFT <- v` at the start of a byte (R161, R164). -/
def loadShift (v : Byte) (s : State) : State := { s with shift := v, bitIdx := 0 }

/-- `SHIFT <- SHIFT >> 1` after a written bit (R161). -/
def shiftOut (s : State) : State := { s with shift := s.shift >>> 1, bitIdx := s.bitIdx + 1 }

/-- `SHIFT <- (SHIFT >> 1) | (b << 7)` after a read bit (R164). -/
def shiftIn (s : State) : State :=
  { s with shift := (s.shift >>> 1) ||| (if s.latch then 0x80#8 else 0#8), bitIdx := s.bitIdx + 1 }

/-- The next `n` bits of the byte being written (R161). -/
def writeBits : Nat → State → State
  | 0, s => s
  | n + 1, s => writeBits n (shiftOut (writeSlot (s.shift.getLsbD 0) s))

/-- `WriteByte(v)` (R161). -/
def writeByte (v : Byte) (s : State) : State := writeBits 8 (loadShift v s)

/-- The next `n` bits of the byte being read (R164). -/
def readBits : Nat → State → State
  | 0, s => s
  | n + 1, s => readBits n (shiftIn (readSlot s))

/-- `ReadByte()`; the byte stands in `shift` (R164). -/
def readByte (s : State) : State := readBits 8 (loadShift 0 s)

/-- The wire constants (R100). -/
def wireReadRom : Byte := 0x33
@[inherit_doc wireReadRom] def wireMatchRom : Byte := 0x55
@[inherit_doc wireReadRom] def wireSkipRom : Byte := 0xCC
@[inherit_doc wireReadRom] def wireSearchRom : Byte := 0xF0
@[inherit_doc wireReadRom] def wireConvertTemperature : Byte := 0x44
@[inherit_doc wireReadRom] def wireReadScratchpad : Byte := 0xBE
@[inherit_doc wireReadRom] def wireWriteScratchpad : Byte := 0x4E
@[inherit_doc wireReadRom] def wireCopyScratchpad : Byte := 0x48
@[inherit_doc wireReadRom] def wireReadPowerSupply : Byte := 0xB4
@[inherit_doc wireReadRom] def wireRecallE2 : Byte := 0xB8

/-- The phase a command with pin events starts in (R40). -/
def firstPhase : Instr → Phase
  | .reset => .resetPulse
  | .search => .resetPulse
  | .readAddress => .resetPulse
  | .select _ => .resetPulse
  | .writeBit _ => .bits
  | .readBit => .bits
  | .writeByte _ => .bits
  | .readByte => .bits
  | .crcInit => .done
  | .crcByte _ => .done
  | .crcCheck _ => .done
  | .crcAddr _ => .done

/-- Acceptance of a command: `ERR <- 0` (R27, R64). -/
def clearErr (s : State) : State := { s with err := 0 }

/-- Acceptance of a command with pin events: `ERR <- 0`, `BUSY <- 1` (R28, R64), `SEQ` at its start. -/
def accept (i : Instr) (s : State) : State :=
  { s with err := 0, busy := true, timer := 0, seq := ⟨some i, firstPhase i, 0⟩ }

/-- The end of a command that succeeded: `BUSY <- 0`, `SEQ` IDLE; `ERR` stays 0 (R28). -/
def finish (s : State) : State := { s with busy := false, seq := Seq.idle }

/-- `raise E`: `ERR <- code(E)`, `BUSY <- 0`, nothing saved, control goes nowhere (R246). -/
def raise (e : ErrorKind) (s : State) : State :=
  { s with err := e.code, busy := false, seq := Seq.idle }

/-- A command on its way: still running, or stopped by an error. -/
inductive Progress where
  | running (s : State)
  | raised (e : ErrorKind) (s : State)
  deriving DecidableEq, Repr

/-- Go on with `f` unless an error was raised: "No further pin event is produced" (R246). -/
def Progress.andThen (p : Progress) (f : State → Progress) : Progress :=
  match p with
  | .running s => f s
  | .raised e s => .raised e s

/-- The end of a command, either way. -/
def Progress.settle : Progress → State
  | .running s => finish s
  | .raised e s => raise e s

/-- A reset pulse that must find somebody: "fail fast" with NoPresence (R142, R173). -/
def resetOrRaise (s : State) : Progress :=
  let t := resetPulse s
  if t.latch then .raised .noPresence t else .running t

end Sys2Proof.Machine
end

