-- ==== Sys2Proof/Machine/Crc.lean ====
section
/-! DEFINITION. The four commands of the CRC-8 engine (40_crc8.md): no pin event, no time, never
`BUSY = 1`. -/

namespace Sys2Proof.Machine

/-- CRC_INIT (R130). -/
def execCrcInit (s : State) : Host.Outcome State Fault Refusal :=
  .next { clearErr s with crcAcc := 0, crcValid := false }

/-- CRC_BYTE (R131). -/
def execCrcByte (v : Byte) (s : State) : Host.Outcome State Fault Refusal :=
  .next { clearErr s with crcAcc := crcUpdate s.crcAcc v }

/-- CRC_CHECK (R132): a mismatch is a flag, not an error. -/
def execCrcCheck (v : Byte) (s : State) : Host.Outcome State Fault Refusal :=
  .next { clearErr s with crcValid := s.crcAcc == v }

/-- `CRC_ACC` and `CRC_VALID` from an address: its CRC over bytes 0 to 6 against byte 7 (R133, R202). -/
def checkCrcOf (a : Address) (s : State) : State :=
  { s with crcAcc := crc8 (lowBytes a), crcValid := validAddress a }

/-- CRC_ADDR (R133): BadIndex before any state write, else the CRC of `REG[i]`. -/
def execCrcAddr (index : Byte) (s : State) : Host.Outcome State Fault Refusal :=
  .next (match lookup index s with
    | none => raise .badIndex (clearErr s)
    | some a => checkCrcOf a (clearErr s))

end Sys2Proof.Machine
end

