-- ==== Sys2Proof/Machine/Addressing.lean ====
section
/-! DEFINITION. READ_ADDRESS, SELECT (44_addressing.md). -/

namespace Sys2Proof.Machine

/-- `ROM <- 0` (R200). -/
def clearRom (s : State) : State := { s with rom := 0 }

/-- The 64 address bits begin (R37). -/
def startAddress (s : State) : State := { s with bitPos := 0 }

/-- `ROM[BITPOS] <- ReadSlot()` once the slot is over (R200, R201). -/
def storeRomBit (s : State) : State :=
  { s with rom := setBit s.rom s.bitPos s.latch, bitPos := s.bitPos + 1 }

/-- The next `n` read slots of an address. -/
def readAddressBits : Nat → State → State
  | 0, s => s
  | n + 1, s => readAddressBits n (storeRomBit (readSlot s))

/-- The check after the 64th bit: on success the registry becomes exactly `[ROM]`, on a mismatch it
stays as it was (R202 to R204). -/
def checkAddress (s : State) : Progress :=
  let t := checkCrcOf s.rom s
  if t.crcValid then .running { t with registry := [s.rom] } else .raised .addressCrcMismatch t

/-- READ_ADDRESS (R200). -/
def execReadAddress (s : State) : Host.Outcome State Fault Refusal :=
  .next ((resetOrRaise (clearRom (accept .readAddress s))).andThen fun t =>
    checkAddress (readAddressBits 64 (startAddress (writeByte wireReadRom t)))).settle

/-- The next position of a SELECT (R37). -/
def nextPosition (s : State) : State := { s with bitPos := s.bitPos + 1 }

/-- The next `n` write slots of an address, "plain bit writes" (R209). -/
def writeAddressBits (a : Address) : Nat → State → State
  | 0, s => s
  | n + 1, s => writeAddressBits a n (nextPosition (writeSlot (bitAt a s.bitPos) s))

/-- SELECT (R206): BadIndex before any pin event, then NoPresence, else the entry is sent. -/
def execSelect (index : Byte) (s : State) : Host.Outcome State Fault Refusal :=
  .next (match lookup index s with
    | none => raise .badIndex (clearErr s)
    | some a =>
      ((resetOrRaise (accept (.select index) s)).andThen fun t =>
        .running (writeAddressBits a 64 (startAddress (writeByte wireMatchRom t)))).settle)

end Sys2Proof.Machine
end

