-- ==== Sys2Proof/Machine/BitTransport.lean ====
section
/-! DEFINITION. RESET, WRITE_BIT, READ_BIT (41_bit_transport.md). -/

namespace Sys2Proof.Machine

/-- RESET (R140): NoPresence is raised after the whole pulse. -/
def execReset (s : State) : Host.Outcome State Fault Refusal :=
  .next (resetOrRaise (accept .reset s)).settle

/-- WRITE_BIT (R143). -/
def execWriteBit (operand : Byte) (s : State) : Host.Outcome State Fault Refusal :=
  .next (finish (writeSlot (bitOperand operand) (accept (.writeBit operand) s)))

/-- `DATA <- zext_8(b)` with the bit just read (R147). -/
def storeBit (s : State) : State := { s with data := if s.latch then 0x01 else 0x00 }

/-- READ_BIT (R147). -/
def execReadBit (s : State) : Host.Outcome State Fault Refusal :=
  .next (finish (storeBit (readSlot (accept .readBit s))))

end Sys2Proof.Machine
end

