-- ==== Sys2Proof/Machine/ByteTransport.lean ====
section
/-! DEFINITION. WRITE_BYTE, READ_BYTE (42_byte_transport.md). -/

namespace Sys2Proof.Machine

/-- WRITE_BYTE (R160). -/
def execWriteByte (v : Byte) (s : State) : Host.Outcome State Fault Refusal :=
  .next (finish (writeByte v (accept (.writeByte v) s)))

/-- `DATA <- ReadByte()`, once, at the end (R163, R166). -/
def storeByte (s : State) : State := { s with data := s.shift }

/-- READ_BYTE (R163). -/
def execReadByte (s : State) : Host.Outcome State Fault Refusal :=
  .next (finish (storeByte (readByte (accept .readByte s))))

end Sys2Proof.Machine
end

