-- ==== Sys2Proof/Machine/Search.lean ====
section
/-! DEFINITION. SEARCH: the binary-tree discovery algorithm of 43_search.md R188, with the corrections of
90_conflicts.md C2 (fork encoding), C3 (recording in every arm) and C6 (no extra pass). -/

namespace Sys2Proof.Machine

/-- Before the first pass: `REG_COUNT <- 0`, `LASTFORK <- 0`, `ROM <- 0` (R171). -/
def startSearch (s : State) : State := { s with registry := [], lastFork := 0, rom := 0 }

/-- After the command byte: `LASTZERO <- 0` (R174), the 64 positions begin (R37). -/
def startPositions (s : State) : State := { s with lastZero := 0, bitPos := 0 }

/-- `ID_BIT <- ReadSlot()` once the slot is over (R175). -/
def latchId (s : State) : State := { s with idBit := s.latch }

/-- `CMP_BIT <- ReadSlot()` once the slot is over (R175). -/
def latchCmp (s : State) : State := { s with cmpBit := s.latch }

/-- The pair (1,1): nobody is taking part (R176, R177). -/
def silentPair (s : State) : Bool := s.idBit && s.cmpBit

/-- The pair (0,0): a collision (R176). -/
def collision (s : State) : Bool := !s.idBit && !s.cmpBit

/-- The chosen bit of a position: R178 at a collision, `ID_BIT` otherwise (R176). -/
def chosenBit (s : State) : Bool :=
  if collision s then
    if s.bitPos + 1 = s.lastFork then true
    else if s.bitPos + 1 < s.lastFork then bitAt s.rom s.bitPos
    else false
  else s.idBit

/-- `if c == 0: LASTZERO <- n`, at a collision, in every arm of the choice (R180, C3). -/
def recordZero (s : State) : State :=
  if collision s && !chosenBit s then { s with lastZero := s.bitPos + 1 } else s

/-- `ROM[p] <- c`, then the next position (R181). -/
def storeChosen (s : State) : State :=
  { s with rom := setBit s.rom s.bitPos (chosenBit s), bitPos := s.bitPos + 1 }

/-- The discovery pair of a position (R175). -/
def discoveryPair (s : State) : State := latchCmp (readSlot (latchId (readSlot s)))

/-- One position: the pair, the choice, the write-back; (1,1) raises straight after the pair
(R175 to R181). -/
def searchPosition (s : State) : Progress :=
  let t := discoveryPair s
  if silentPair t then .raised .noPresence t
  else
    let u := recordZero t
    .running (storeChosen (writeSlot (chosenBit u) u))

/-- The next `n` positions. -/
def searchPositions : Nat → State → Progress
  | 0, s => .running s
  | n + 1, s => (searchPosition s).andThen (searchPositions n)

/-- Step 4: RegistryFull, or append the candidate and seed the next pass's fork (R185, R186). -/
def appendCandidate (s : State) : Progress :=
  if regCount s = s.regDepth then .raised .registryFull s
  else .running { s with registry := s.registry ++ [s.rom], lastFork := s.lastZero }

/-- One pass, steps 1 to 4 (R173 to R186). -/
def searchPass (s : State) : Progress :=
  (resetOrRaise s).andThen fun t =>
    (searchPositions 64 (startPositions (writeByte wireSearchRom t))).andThen appendCandidate

/-- Passes while a fork is left (R187), for a registry that takes `free` more entries: the pass that
finds it full raises (R185), so `free + 1` passes are all there can be (R194). -/
def searchPasses : Nat → State → Progress
  | 0, s => searchPass s
  | free + 1, s =>
    (searchPass s).andThen fun t => if t.lastFork = 0 then .running t else searchPasses free t

/-- SEARCH (R170, R188). -/
def execSearch (s : State) : Host.Outcome State Fault Refusal :=
  .next (searchPasses s.regDepth (startSearch (accept .search s))).settle

end Sys2Proof.Machine
end

