-- ==== Sys2Proof/Machine/Dispatch.lean ====
section
/-! DEFINITION. One arm per command: a command is accepted and executed to its end (R64). It is called
for an idle core; what a `CMD` write does while `BUSY = 1` is decided before it (R65, `issue`). -/

namespace Sys2Proof.Machine

def exec (i : Instr) (s : State) : Host.Outcome State Fault Refusal :=
  match i with
  | .reset => Sys2Proof.Machine.execReset s
  | .writeBit operand => Sys2Proof.Machine.execWriteBit operand s
  | .readBit => Sys2Proof.Machine.execReadBit s
  | .writeByte v => Sys2Proof.Machine.execWriteByte v s
  | .readByte => Sys2Proof.Machine.execReadByte s
  | .search => Sys2Proof.Machine.execSearch s
  | .readAddress => Sys2Proof.Machine.execReadAddress s
  | .select index => Sys2Proof.Machine.execSelect index s
  | .crcInit => Sys2Proof.Machine.execCrcInit s
  | .crcByte v => Sys2Proof.Machine.execCrcByte v s
  | .crcCheck v => Sys2Proof.Machine.execCrcCheck v s
  | .crcAddr index => Sys2Proof.Machine.execCrcAddr index s

end Sys2Proof.Machine
end

