-- ==== Sys2Proof/Machine/Sequencer.lean ====
section
/-! DEFINITION. The sequencer in small steps (R40, R41): one primitive or one microsecond tick of a
running command, for a host that does not wait for the end of the command. The same operations as the
meanings in `exec` are taken one at a time; R40: "it matters only to a model that interleaves pin events
with an environment". -/

namespace Sys2Proof.Machine

/-- Commands whose duration is zero (R28): the CRC commands, and an index that BadIndex refuses. -/
def zeroTime (i : Instr) (s : State) : Bool :=
  match i with
  | .reset => false
  | .writeBit _ => false
  | .readBit => false
  | .writeByte _ => false
  | .readByte => false
  | .search => false
  | .readAddress => false
  | .select index => (lookup index s).isNone
  | .crcInit => true
  | .crcByte _ => true
  | .crcCheck _ => true
  | .crcAddr _ => true

/-- The first cycle of a command with pin events: acceptance, and what the pseudocode does before its
first primitive. -/
def beginCommand (i : Instr) (s : State) : State :=
  match i with
  | .reset => accept .reset s
  | .writeBit operand => accept (.writeBit operand) s
  | .readBit => accept .readBit s
  | .writeByte v => loadShift v (accept (.writeByte v) s)
  | .readByte => loadShift 0 (accept .readByte s)
  | .search => startSearch (accept .search s)
  | .readAddress => clearRom (accept .readAddress s)
  | .select index => accept (.select index) s
  | .crcInit => accept .crcInit s
  | .crcByte v => accept (.crcByte v) s
  | .crcCheck v => accept (.crcCheck v) s
  | .crcAddr index => accept (.crcAddr index) s

/-- The write slots of a SELECT position (R209). -/
def selectPrims (index : Byte) (s : State) : List Prim :=
  match lookup index s with
  | some a => writePrims (bitAt a s.bitPos)
  | none => []

/-- The primitives `SLOT` counts through at the current position of `SEQ`: one slot, or the three slots
of a SEARCH position (R181; log entry 8). -/
def seqPrims (s : State) : List Prim :=
  match s.seq.op, s.seq.phase with
  | some .reset, .resetPulse => resetPrims
  | some .search, .resetPulse => resetPrims
  | some .readAddress, .resetPulse => resetPrims
  | some (.select _), .resetPulse => resetPrims
  | some .search, .cmdByte => writePrims (s.shift.getLsbD 0)
  | some .readAddress, .cmdByte => writePrims (s.shift.getLsbD 0)
  | some (.select _), .cmdByte => writePrims (s.shift.getLsbD 0)
  | some (.writeBit operand), .bits => writePrims (bitOperand operand)
  | some .readBit, .bits => readPrims
  | some (.writeByte _), .bits => writePrims (s.shift.getLsbD 0)
  | some .readByte, .bits => readPrims
  | some .search, .bits => readPrims ++ readPrims ++ writePrims (chosenBit s)
  | some .readAddress, .bits => readPrims
  | some (.select index), .bits => selectPrims index s
  | _, _ => []

/-- `SLOT` and `PHASE` of a running command move on. -/
def goTo (phase : Phase) (slot : Nat) (s : State) : State :=
  { s with seq := { s.seq with phase := phase, slot := slot } }

/-- After a reset pulse: NoPresence, or the command byte `v` follows; RESET is over. -/
def afterPulse (s : State) : State :=
  if s.latch then raise .noPresence s
  else match s.seq.op with
    | some .search => loadShift wireSearchRom (goTo .cmdByte 0 s)
    | some .readAddress => loadShift wireReadRom (goTo .cmdByte 0 s)
    | some (.select _) => loadShift wireMatchRom (goTo .cmdByte 0 s)
    | _ => finish s

/-- After a bit of the command byte: the next bit, or the 64 positions begin. -/
def afterCmdBit (s : State) : State :=
  let t := shiftOut s
  if t.bitIdx = 8 then
    match s.seq.op with
    | some .search => startPositions (goTo .bits 0 t)
    | _ => startAddress (goTo .bits 0 t)
  else goTo .cmdByte 0 t

/-- After a SEARCH position: the next one, or the end of the pass and of the command (R185 to R187). -/
def afterSearchPosition (s : State) : State :=
  let t := storeChosen s
  if t.bitPos = 64 then
    match appendCandidate t with
    | .raised e u => raise e u
    | .running u => if u.lastFork = 0 then finish u else goTo .resetPulse 0 u
  else goTo .bits 0 t

/-- After a slot outside the 64 positions of SEARCH. -/
def afterSlot (s : State) : State :=
  match s.seq.op, s.seq.phase with
  | _, .resetPulse => afterPulse s
  | _, .cmdByte => afterCmdBit s
  | some (.writeBit _), .bits => finish s
  | some .readBit, .bits => finish (storeBit s)
  | some (.writeByte _), .bits =>
    let t := shiftOut s
    if t.bitIdx = 8 then finish t else goTo .bits 0 t
  | some .readByte, .bits =>
    let t := shiftIn s
    if t.bitIdx = 8 then finish (storeByte t) else goTo .bits 0 t
  | some .readAddress, .bits =>
    let t := storeRomBit s
    if t.bitPos = 64 then (checkAddress t).settle else goTo .bits 0 t
  | some (.select _), .bits =>
    let t := nextPosition s
    if t.bitPos = 64 then finish t else goTo .bits 0 t
  | _, _ => finish s

/-- Inside a SEARCH position, after its `k`-th primitive: the two reads end after 6 and 12 (R175), a
(1,1) pair raises there (R177), the choice is recorded (R180), the write ends after 16 (R181). -/
def afterSearchPrim (k : Nat) (s : State) : State :=
  if k = 6 then goTo .bits 6 (latchId s)
  else if k = 12 then
    let t := latchCmp s
    if silentPair t then raise .noPresence t else goTo .bits 12 (recordZero t)
  else if k = 16 then afterSearchPosition s
  else goTo .bits k s

/-- A primitive is over: `SLOT` moves on; computation takes no time (D4). -/
def afterPrim (s : State) : State :=
  if s.seq.op = some .search ∧ s.seq.phase = .bits then afterSearchPrim (s.seq.slot + 1) s
  else if s.seq.slot + 1 = (seqPrims s).length then afterSlot s
  else goTo s.seq.phase (s.seq.slot + 1) s

/-- One small step of the sequencer: idle time while no command runs; a microsecond tick of a running
`Wait`; or the next primitive, a `Wait(n)` loading `TIMER` with `n` (R41). -/
def seqTick (s : State) : Host.Outcome State Fault Refusal :=
  if s.seq.op.isNone then .next s
  else match (seqPrims s)[s.seq.slot]? with
    | none => .fault .sequencerLost
    | some (.wait n) =>
      if s.timer = 0 then .next { s with timer := n }
      else if s.timer = 1 then .next (afterPrim (wait n s))
      else .next { s with timer := s.timer - 1 }
    | some .driveLow => .next (afterPrim (driveLow s))
    | some .release => .next (afterPrim (release s))
    | some .sample =>
      if s.dqOe then .fault .sampleWhileDriving else .next (afterPrim (sample s))

/-- `n` small steps, stopping at the first that does not answer a next state. -/
def seqRun : Nat → State → Host.Outcome State Fault Refusal
  | 0, s => .next s
  | n + 1, s =>
    match seqTick s with
    | .next t => seqRun n t
    | .fault e => .fault e
    | .refused e => .refused e

end Sys2Proof.Machine
end

