-- ==== Sys2Proof/Machine/HostPort.lean ====
section
/-! DEFINITION. The host register space (20_memory.md R61 to R69): reads, writes, command issue, and
the core's reset input (R270, R271). -/

namespace Sys2Proof.Machine

/-- The eight registers (R61). -/
inductive HostReg where
  | cmd | status | data | crc | regCount | regIndex | regLo | regHi
  deriving DecidableEq, Repr

/-- The register at a byte offset; `none` outside the core (R61). -/
def hostRegAt (addr : Nat) : Option HostReg :=
  match addr with
  | 0x00 => some .cmd
  | 0x04 => some .status
  | 0x08 => some .data
  | 0x0C => some .crc
  | 0x10 => some .regCount
  | 0x14 => some .regIndex
  | 0x18 => some .regLo
  | 0x1C => some .regHi
  | _ => none

/-- Whether a running command writes the state a result register shows (R43, R67). -/
def writesReg (i : Instr) (r : HostReg) : Bool :=
  match r with
  | .cmd => false
  | .status => false
  | .regIndex => false
  | .data => i == .readBit || i == .readByte
  | .crc => i == .readAddress
  | .regCount => i == .search || i == .readAddress
  | .regLo => i == .search || i == .readAddress
  | .regHi => i == .search || i == .readAddress

/-- "the value is unspecified while a command that writes them is running" (R67, U9). -/
def unsettledReg (r : HostReg) (s : State) : Bool :=
  match s.seq.op with
  | some i => s.busy && writesReg i r
  | none => false

/-- The free word of this read (log entry 3). -/
def freeWordNow (s : State) : HostWord := Config.freeWord s.freeReads

/-- What a result register shows: its content, or a free value of the same field width while
unsettled (R67; bits outside the field read 0, R61). -/
def settledOr (r : HostReg) (width : Nat) (content : HostWord) (s : State) : HostWord :=
  if unsettledReg r s then ((freeWordNow s).setWidth width).setWidth 32 else content

/-- The window on `REG[REG_INDEX]` (R68): 0 at or beyond REG_DEPTH; a free value at or beyond
`REG_COUNT`, and while a command that writes the registry runs (R67); else half `hi` of the entry. -/
def windowWord (hi : Bool) (s : State) : HostWord :=
  if s.regDepth ≤ s.regIndex.toNat then 0
  else match lookup s.regIndex s with
    | none => freeWordNow s
    | some a =>
      settledOr (if hi then .regHi else .regLo) 32 (a.extractLsb' (if hi then 32 else 0) 32) s

/-- The 32-bit content of a register at the instant of the read (R61, R62). -/
def readReg (r : HostReg) (s : State) : HostWord :=
  match r with
  | .cmd => 0
  | .status => statusWord s
  | .data => settledOr .data 8 (s.data.setWidth 32) s
  | .crc => settledOr .crc 9 (crcWord s) s
  | .regCount => settledOr .regCount 9 (BitVec.ofNat 32 (regCount s)) s
  | .regIndex => s.regIndex.setWidth 32
  | .regLo => windowWord false s
  | .regHi => windowWord true s

/-- "one aligned 32-bit word: `addr` is a multiple of 4 and `n = 4`" (R66). -/
def alignedWord (addr n : Nat) : Bool := addr % 4 == 0 && n == 4

/-- `MemRead(addr, n)` (R62): the word goes to the host, no state of the core changes. -/
def hostRead (addr n : Nat) (s : State) : Host.Outcome State Fault Refusal :=
  if alignedWord addr n then
    match hostRegAt addr with
    | some r => .next { s with hostData := readReg r s, freeReads := s.freeReads + 1 }
    | none => .refused .accessOutsideCore
  else .refused .accessNotAlignedWord

/-- A word that matches no row of the opcode map (R243). -/
def illegalWord (s : State) : State := raise .illegalCommand (clearErr s)

/-- A `CMD` write while `BUSY = 1`: dropped, `OVR <- 1`, the running command undisturbed (R65). -/
def dropCommand (s : State) : State := { s with ovr := true }

/-- Command issue (R64, R65): while idle the word `v[15:0]` is decoded and executed to its end. -/
def issue (v : HostWord) (s : State) : Host.Outcome State Fault Refusal :=
  if s.busy then .next (dropCommand s)
  else match decode (v.setWidth 16) with
    | .error _ => .next (illegalWord s)
    | .ok i => exec i s

/-- Command issue by a host that goes on at once: the first cycle only (R28, R64). -/
def postCommand (v : HostWord) (s : State) : Host.Outcome State Fault Refusal :=
  if s.busy then .next (dropCommand s)
  else match decode (v.setWidth 16) with
    | .error _ => .next (illegalWord s)
    | .ok i => if zeroTime i s then exec i s else .next (beginCommand i s)

/-- `STATUS` write: `OVR` is cleared if `v[1] = 1`, nothing else (R63). -/
def writeStatus (v : HostWord) (s : State) : State :=
  if v.getLsbD 1 then { s with ovr := false } else s

/-- `REG_INDEX <- v[7:0]` (R63). -/
def writeRegIndex (v : HostWord) (s : State) : State := { s with regIndex := v.setWidth 8 }

/-- A write of one register; read-only registers ignore it (R61, R63). -/
def writeReg (r : HostReg) (v : HostWord) (s : State) : Host.Outcome State Fault Refusal :=
  match r with
  | .cmd => issue v s
  | .status => .next (writeStatus v s)
  | .regIndex => .next (writeRegIndex v s)
  | .data => .next s
  | .crc => .next s
  | .regCount => .next s
  | .regLo => .next s
  | .regHi => .next s

/-- `MemWrite(addr, n, v)` (R63). -/
def hostWrite (addr n : Nat) (v : HostWord) (s : State) : Host.Outcome State Fault Refusal :=
  if alignedWord addr n then
    match hostRegAt addr with
    | some r => writeReg r v s
    | none => .refused .accessOutsideCore
  else .refused .accessNotAlignedWord

/-- The core reset input (R270, R271): the state of R42, the pin released at once; what stands around
the core (the line, the trace, the host, the parameter) goes on (log entry 10). -/
def coreReset (s : State) : State :=
  { State.reset with
    regDepth := s.regDepth, line := s.line, samples := s.samples
    trace := if s.dqOe then .Z :: s.trace else s.trace
    inputs := s.inputs, hostData := s.hostData, freeReads := s.freeReads }

/-- One input. -/
def hostInput (x : HostInput) (s : State) : Host.Outcome State Fault Refusal :=
  match x with
  | .write addr n v => hostWrite addr n v s
  | .read addr n => hostRead addr n s
  | .post v => postCommand v s
  | .run n => seqRun n s
  | .coreReset => .next (coreReset s)

/-- The host takes its next input off the list. -/
def takeInput (rest : List HostInput) (s : State) : State := { s with inputs := rest }

/-- The host writes a command word to `CMD` next, and the core is ready to accept it (R64: `BUSY = 0`;
log entry 11). -/
def nextCommand (w : CommandWord) (s : State) : State :=
  { s with busy := false, seq := Seq.idle, inputs := .write 0x00 4 (w.setWidth 32) :: s.inputs }

end Sys2Proof.Machine
end

