-- ==== Sys2Proof/Machine/Step.lean ====
section
/-! DEFINITION. One step: the host's next input, or, with none, the next small step of the sequencer
(log entry 1). After reset the core "does nothing until the host writes `CMD`" (R270). -/

namespace Sys2Proof.Machine

def step (s : State) : Host.Outcome State Fault Refusal :=
  match s.inputs with
  | [] => seqTick s
  | x :: rest => hostInput x (takeInput rest s)

/-- The state in which the very next step is the `CMD` write of the table's word `w` to an idle core
(log entry 11). -/
def State.withFetchWord (s : State) (nbits w : Nat) : State := nextCommand (tableWord nbits w) s

end Sys2Proof.Machine
end

