-- ==== Sys2Proof/Machine/Trace.lean ====
section
/-! DEFINITION. The pin trace seen slot by slot (R111), its duration (R290), and the oracle seen as the
sequence of its answers (R10): the words the statements use. No meaning calls them. -/

namespace Sys2Proof.Machine

/-- A slot of the trace (R111): `RST(b)`, `W0`/`W1`, `R(b)`. -/
inductive Slot where
  | rst (b : Bool)
  | w (b : Bool)
  | r (b : Bool)
  deriving DecidableEq, Repr

/-- The events each abbreviation stands for, first event first (R111's table). -/
def slotEvents : Slot → List PinEvent
  | .rst b => [.L, .W 480, .Z, .W 70, .S b, .W 410]
  | .w true => [.L, .W 5, .Z, .W 60]
  | .w false => [.L, .W 60, .Z, .W 5]
  | .r b => [.L, .W 3, .Z, .W 8, .S b, .W 60]

/-- The events of a sequence of slots, first event first. -/
def slotsEvents (sl : List Slot) : List PinEvent := sl.flatMap slotEvents

/-- `WB(v)`: the eight write slots of a byte, bit 0 first (R111, R70). -/
def byteSlots (v : Byte) : List Slot := (List.range 8).map fun k => .w (v.getLsbD k)

/-- The 64 write slots of an address, bit 0 first (R71, R209). -/
def addressSlots (a : Address) : List Slot := (List.range 64).map fun p => .w (bitAt a p)

/-- A trace, newest event first, after the slots `sl` have been appended to `before`. -/
def afterSlots (sl : List Slot) (before : List PinEvent) : List PinEvent :=
  (slotsEvents sl).reverse ++ before

/-- Microseconds of one event: only `W(n)` takes time (R290). -/
def eventDuration : PinEvent → Nat
  | .L => 0
  | .Z => 0
  | .W n => n
  | .S _ => 0

/-- The sum of the `Wait` arguments of a trace (R290). -/
def traceDuration (tr : List PinEvent) : Nat := (tr.map eventDuration).sum

/-- The sample a slot makes, if it makes one (R146, R149). -/
def slotSample : Slot → Option Bool
  | .rst b => some b
  | .w _ => none
  | .r b => some b

/-- The samples of a sequence of slots, in order. -/
def slotSamples (sl : List Slot) : List Bool := sl.filterMap slotSample

/-- The oracle's `k`-th answer from here: the list's, then the free level (R10, log entry 2). -/
def level (s : State) (k : Nat) : Bool :=
  match s.line[k]? with
  | some b => b
  | none => Config.lineLevel (s.samples + k)

/-- The oracle's next `n` answers. -/
def levels (s : State) (n : Nat) : List Bool := (List.range n).map (level s)

/-- The state once `n` samples have been taken and the slots `sl` sent; everything else as in `s`. -/
def afterBus (n : Nat) (sl : List Slot) (s : State) : State :=
  { s with dqOe := false, line := s.line.drop n, samples := s.samples + n
           trace := afterSlots sl s.trace }

/-- The three slots of a SEARCH position: the pair read and the bit written (R181). -/
structure Triplet where
  id : Bool
  cmp : Bool
  written : Bool
  deriving DecidableEq, Repr

/-- `R(ID_BIT) R(CMP_BIT) Wc` (R181). -/
def tripletSlots (x : Triplet) : List Slot := [.r x.id, .r x.cmp, .w x.written]

/-- One complete pass: `RST(0) WB(0xF0)` and its triplets (R193). -/
def passSlots (xs : List Triplet) : List Slot :=
  [.rst false] ++ byteSlots 0xF0 ++ xs.flatMap tripletSlots

end Sys2Proof.Machine
end

