-- ==== Sys2Proof/Machine/IdealBus.lean ====
section
/-! DEFINITION. The ideal bus of 95_test_vectors.md section 2: a test fixture, "not a rule of the core"
(log entry 17). No meaning calls it; statements about well-behaved slaves (R189 to R191) take it as a
premise on the trace. -/

namespace Sys2Proof.Machine

/-- A slave: its address, and the nine scratchpad bytes it may carry. -/
structure Slave where
  addr : Address
  scratchpad : Option (List Byte)
  deriving DecidableEq, Repr

/-- The mode of the bus. -/
inductive BusMode where
  | idle | cmd | search | readRom | matchRom | func
  deriving DecidableEq, Repr

/-- The state of the bus. -/
structure Bus where
  slaves : List Slave
  active : List Slave
  mode : BusMode
  /-- The bit position of SEARCH, READROM and MATCH; the scratchpad bit being sent in FUNC. -/
  pos : Nat
  /-- 0, 1 or 2 in SEARCH mode. -/
  phase : Nat
  /-- The byte being collected, and how many of its bits have come. -/
  shift : Byte
  collected : Nat
  /-- FUNC: 0xBE was received, scratchpads are being sent. -/
  sending : Bool
  deriving DecidableEq, Repr

/-- A bus on which nothing has happened yet. -/
def Bus.fresh (slaves : List Slave) : Bus :=
  { slaves := slaves, active := [], mode := .idle, pos := 0, phase := 0, shift := 0, collected := 0
    sending := false }

/-- Reset pulse: everybody takes part, eight command bits to collect. -/
def busReset (b : Bus) : Bus :=
  { b with active := b.slaves, mode := .cmd, pos := 0, phase := 0, shift := 0, collected := 0
           sending := false }

/-- The presence sample of a reset pulse: 0 if there is a slave. -/
def busPresence (b : Bus) : Bool := b.slaves.isEmpty

/-- The wired-AND of a bit over the active slaves (R76). -/
def wiredAnd (active : List Slave) (f : Slave → Bool) : Bool := active.all f

/-- The mode a command byte selects. -/
def modeOf (v : Byte) : BusMode :=
  if v = 0xF0#8 then .search
  else if v = 0x33#8 then .readRom
  else if v = 0x55#8 then .matchRom
  else .func

/-- One more bit of a byte, least significant first. -/
def busCollect (c : Bool) (b : Bus) : Bus :=
  { b with shift := (b.shift >>> 1) ||| (if c then 0x80#8 else 0#8), collected := b.collected + 1 }

/-- The slaves whose bit `pos` is `c` stay. -/
def busPrune (c : Bool) (b : Bus) : Bus :=
  { b with active := b.active.filter fun x => bitAt x.addr b.pos == c }

/-- The next bit position; after position 63 the mode is FUNC. -/
def busAdvance (b : Bus) : Bus :=
  if b.pos + 1 = 64 then { b with mode := .func, pos := 0, phase := 0, shift := 0, collected := 0 }
  else { b with pos := b.pos + 1, phase := 0 }

/-- A write slot with bit `c`. -/
def busWrite (c : Bool) (b : Bus) : Bus :=
  match b.mode with
  | .idle => b
  | .cmd =>
    let d := busCollect c b
    if d.collected = 8 then { d with mode := modeOf d.shift, pos := 0, phase := 0, shift := 0, collected := 0 }
    else d
  | .search => busAdvance (busPrune c b)
  | .readRom => b
  | .matchRom => busAdvance (busPrune c b)
  | .func =>
    let d := busCollect c b
    if d.collected = 8 then { d with sending := d.shift == 0xBE#8, pos := 0, shift := 0, collected := 0 }
    else d

/-- Bit `k` of a scratchpad image, byte 0 first, each byte least significant bit first; a slave that
sends nothing leaves the line high. -/
def scratchpadBit (x : Slave) (k : Nat) : Bool :=
  match x.scratchpad with
  | none => true
  | some image => (image.getD (k / 8) 0xFF).getLsbD (k % 8)

/-- The level a read slot samples. -/
def busLevel (b : Bus) : Bool :=
  match b.mode with
  | .idle => true
  | .cmd => true
  | .search =>
    if b.phase = 0 then wiredAnd b.active fun x => bitAt x.addr b.pos
    else if b.phase = 1 then wiredAnd b.active fun x => !bitAt x.addr b.pos
    else true
  | .readRom => wiredAnd b.active fun x => bitAt x.addr b.pos
  | .matchRom => true
  | .func => if b.sending && b.pos < 72 then wiredAnd b.active fun x => scratchpadBit x b.pos else true

/-- The bus after a read slot. -/
def busRead (b : Bus) : Bus :=
  match b.mode with
  | .idle => b
  | .cmd => b
  | .search => { b with phase := b.phase + 1 }
  | .readRom => busAdvance b
  | .matchRom => b
  | .func => if b.sending then { b with pos := b.pos + 1 } else b

/-- The bus after one slot, if the slot's sample is the one the bus gives. -/
def busSlot (b : Bus) (x : Slot) : Option Bus :=
  match x with
  | .rst p => if p = busPresence b then some (busReset b) else none
  | .w c => some (busWrite c b)
  | .r l => if l = busLevel b then some (busRead b) else none

/-- The bus after a sequence of slots, if every sample in it is the one the bus gives. -/
def busRun (b : Bus) (sl : List Slot) : Option Bus := sl.foldlM busSlot b

/-- The addresses on the bus. -/
def busAddresses (b : Bus) : List Address := b.slaves.map Slave.addr

/-- Discovery order (R190): at the lowest position where they differ, `a` has 0. -/
def discoveredBefore (a b : Address) : Prop :=
  ∃ p < 64, (∀ q < p, bitAt a q = bitAt b q) ∧ bitAt a p = false ∧ bitAt b p = true

end Sys2Proof.Machine
end

