-- ==== Sys2Proof/Machine/Listing.lean ====
section
/-! DEFINITION. Host listings and pseudo-commands (R115, R116): host software, no encoding of the core
(log entry 18). -/

namespace Sys2Proof.Machine

/-- A line of a listing (R115). -/
inductive Line where
  /-- A mnemonic with its operand; it assembles to the one word R92 gives. -/
  | command (i : Instr)
  /-- `IF_ERR STOP`: the host reads `STATUS` and issues nothing further when `ERR != 0`. -/
  | ifErrStop
  /-- `.word v`: a raw value written to `CMD`. -/
  | word (v : CommandWord)
  deriving DecidableEq, Repr

/-- The core after the host has written a word to `CMD` and waited for the end of the command. -/
def issued (w : CommandWord) (s : State) : State :=
  match issue (w.setWidth 32) s with
  | .next t => t
  | .fault _ => s
  | .refused _ => s

/-- A listing, each command issued when the one before is over (R115). -/
def runListing : List Line → State → State
  | [], s => s
  | .command i :: rest, s => runListing rest (issued (encode i) s)
  | .ifErrStop :: rest, s => if s.err = 0 then runListing rest s else s
  | .word v :: rest, s => runListing rest (issued v s)

/-- The words a listing writes, if no `IF_ERR STOP` stops it. -/
def assemble : List Line → List CommandWord
  | [] => []
  | .command i :: rest => encode i :: assemble rest
  | .ifErrStop :: rest => assemble rest
  | .word v :: rest => v :: assemble rest

/-- "Write(encoded resolution byte = ((bits-9)<<5)|0x1F)" (R228, R229). -/
def resolutionByte (bits : Nat) : Byte := BitVec.ofNat 8 (((bits - 9) <<< 5) ||| 0x1F)

/-- The pseudo-commands that are straight listings (R116); READ_TEMPERATURE_RAW, which feeds read
bytes back, is `readTemperatureRaw` in Thermometer.lean. -/
inductive Pseudo where
  | skipRom
  | convertT
  | readScratchpad
  | writeScratchpad
  | copyScratchpad
  | readPowerSupply
  | recallE2
  | requestTemperature (index : Byte)
  | setResolution (index : Byte) (bits : Nat)
  deriving DecidableEq, Repr

/-- R116's expansions. -/
def Pseudo.expand : Pseudo → List Line
  | .skipRom => [.command (.writeByte wireSkipRom)]
  | .convertT => [.command (.writeByte wireConvertTemperature)]
  | .readScratchpad => [.command (.writeByte wireReadScratchpad)]
  | .writeScratchpad => [.command (.writeByte wireWriteScratchpad)]
  | .copyScratchpad => [.command (.writeByte wireCopyScratchpad)]
  | .readPowerSupply => [.command (.writeByte wireReadPowerSupply)]
  | .recallE2 => [.command (.writeByte wireRecallE2)]
  | .requestTemperature index =>
    [.command (.select index), .ifErrStop, .command (.writeByte wireConvertTemperature)]
  | .setResolution index bits =>
    if bits < 9 ∨ 12 < bits then []
    else [.command (.select index), .ifErrStop, .command (.writeByte wireWriteScratchpad),
      .command (.writeByte 0xFF), .command (.writeByte 0x00),
      .command (.writeByte (resolutionByte bits))]

end Sys2Proof.Machine
end

