-- ==== Sys2Proof/Machine/Thermometer.lean ====
section
/-! DEFINITION. The thermometer layer (45_thermometer_consumer.md): host software over the commands of
the core, outside the core by R4, modelled as functions of the core's state (log entry 18). -/

namespace Sys2Proof.Machine

/-- What a consumer call without return data returns: success, or an error code (R220, R221). -/
abbrev CallResult := Except (BitVec 3) Unit

/-- The result of a listing whose commands have run: the error `ERR` holds, or success (R220). -/
def resultOf (s : State) : CallResult := if s.err = 0 then .ok () else .error s.err

/-- A listing, and its result. -/
def runCall (listing : List Line) (s : State) : CallResult × State :=
  let t := runListing listing s
  (resultOf t, t)

/-- RequestTemperature (R221): "the error of SELECT, or success". -/
def requestTemperature (index : Byte) (s : State) : CallResult × State :=
  runCall (Pseudo.requestTemperature index).expand s

/-- SetResolution (R228): for `bits` outside 9 to 12 success with no command issued, whatever error the
last command left in `ERR`; else the listing, and the error of SELECT or success. -/
def setResolution (index : Byte) (bits : Nat) (s : State) : CallResult × State :=
  if bits < 9 ∨ 12 < bits then (.ok (), s)
  else runCall (Pseudo.setResolution index bits).expand s

/-- `READ_BYTE`, then the host reads `DATA` and feeds it to the CRC engine, `n` times (R222). -/
def readCheckedBytes : Nat → State → List Byte × State
  | 0, s => ([], s)
  | n + 1, s =>
    let t := issued (encode .readByte) s
    let rest := readCheckedBytes n (issued (encode (.crcByte t.data)) t)
    (t.data :: rest.1, rest.2)

/-- What a consumer call returns: an error code, or bytes 0 and 1 of the scratchpad. -/
abbrev RawResult := Except (BitVec 3) (Byte × Byte)

/-- The ninth byte and the check: ScratchpadCrcMismatch is host software's error (R222, R225). -/
def checkScratchpad (bytes : List Byte) (s : State) : RawResult × State :=
  let t := issued (encode .readByte) s
  let u := issued (encode (.crcCheck t.data)) t
  if u.crcValid then (.ok (bytes.getD 0 0, bytes.getD 1 0), u)
  else (.error ErrorKind.scratchpadCrcMismatch.code, u)

/-- ReadTemperatureRaw (R222). -/
def readTemperatureRaw (index : Byte) (s : State) : RawResult × State :=
  let t := issued (encode (.select index)) s
  if t.err = 0 then
    let r := readCheckedBytes 8
      (issued (encode .crcInit) (issued (encode (.writeByte wireReadScratchpad)) t))
    checkScratchpad r.1 r.2
  else (.error t.err, t)

/-- The raw count: little-endian 16-bit two's complement (R226). -/
def rawCount (lo hi : Byte) : Int := (hi ++ lo : BitVec 16).toInt

/-- `milli = (raw * 625) / 10`: multiply first, then divide, truncating toward zero (R226, R227). -/
def milliDegrees (lo hi : Byte) : Int := (rawCount lo hi * 625).tdiv 10

/-- ReadTemperature (R226). -/
def readTemperature (index : Byte) (s : State) : Except (BitVec 3) Int × State :=
  match readTemperatureRaw index s with
  | (.ok (lo, hi), t) => (.ok (milliDegrees lo hi), t)
  | (.error e, t) => (.error e, t)

/-- Scratchpad layout (R224). -/
structure Scratchpad where
  rawLow : Byte
  rawHigh : Byte
  thAlarm : Byte
  tlAlarm : Byte
  configuration : Byte
  reserved5 : Byte
  reserved6 : Byte
  reserved7 : Byte
  crc : Byte
  deriving DecidableEq, Repr

/-- The scratchpad in the order its bytes are read, byte 0 first (R224). -/
def Scratchpad.bytes (x : Scratchpad) : List Byte :=
  [x.rawLow, x.rawHigh, x.thAlarm, x.tlAlarm, x.configuration, x.reserved5, x.reserved6, x.reserved7, x.crc]

/-- The scratchpad check, `valid` with count 8 (R223). -/
def Scratchpad.valid (x : Scratchpad) : Bool := crcValidFor (x.bytes.take 8) x.crc

end Sys2Proof.Machine
end

