-- ==== Sys2Proof/Safety.lean ====
section
/-! DEFINITION. What counts as a safe state, in the words the statements use: an idle core, the
sequencer's position while a command runs, the invariant, and the state a host can know of. -/

namespace Sys2Proof.Machine

/-- Between commands: `BUSY = 0`, `SEQ` IDLE, the pin released (R28, R31, R40). -/
structure Idle (s : State) : Prop where
  busy : s.busy = false
  seq : s.seq = Seq.idle
  dqOe : s.dqOe = false
  timer : s.timer = 0

/-- Whether the core drives the line low after these primitives, from a released pin (R31). -/
def drivenAfter (ps : List Prim) : Bool :=
  ps.foldl (fun driven p => match p with
    | .driveLow => true
    | .release => false
    | .wait _ => driven
    | .sample => driven) false

/-- The longest `Wait` the primitive at a position allows `TIMER` to hold (R41). -/
def timerBound (p : Option Prim) : Nat :=
  match p with
  | some (.wait n) => n
  | some .driveLow => 0
  | some .release => 0
  | some .sample => 0
  | none => 0

/-- Inside a command: `SEQ` names a primitive of a running command, `DQ_OE` is what the primitives
before it left, and `TIMER` is within its `Wait` (R28, R31, R40, R41). -/
structure Running (s : State) : Prop where
  busy : s.busy = true
  err : s.err = 0
  position : s.seq.slot < (seqPrims s).length
  dqOe : s.dqOe = drivenAfter ((seqPrims s).take s.seq.slot)
  timer : s.timer ≤ timerBound (seqPrims s)[s.seq.slot]?
  byteBits : s.bitIdx < 8 ∨ s.seq.phase = .resetPulse ∨ s.seq.phase = .bits
  dataBits : ∀ i, s.seq.op = some i → s.seq.phase = .bits →
    (∀ v, i = .writeByte v → s.bitIdx < 8) ∧ (i = .readByte → s.bitIdx < 8) ∧
    (i = .search → s.bitPos < 64) ∧ (i = .readAddress → s.bitPos < 64) ∧
    (∀ k, i = .select k → s.bitPos < 64)
  index : ∀ k, s.seq.op = some (.select k) → k.toNat < regCount s

/-- The invariant: the widths and ranges the spec gives (R9, R22, R34 to R37, R39, R41), `ERR` never 3
or 7 (R240, U17), and the core is idle or inside a command. -/
structure Inv (s : State) : Prop where
  depth_pos : 1 ≤ s.regDepth
  depth_le : s.regDepth ≤ 256
  count : regCount s ≤ s.regDepth
  err_ne_three : s.err ≠ 3
  err_ne_seven : s.err ≠ 7
  lastZero : s.lastZero ≤ 64
  lastFork : s.lastFork ≤ 64
  bitPos : s.bitPos ≤ 64
  bitIdx : s.bitIdx ≤ 8
  timer : s.timer ≤ 480
  position : Idle s ∨ Running s

/-- The state without what only a running command gives a meaning to (R20 (c), R32, U8): command-local
state and the model's `latch` are set to one fixed value. -/
def forgetLocal (s : State) : State :=
  { s with rom := 0, lastZero := 0, lastFork := 0, bitPos := 0, idBit := false, cmpBit := false
           shift := 0, bitIdx := 0, timer := 0, latch := false }

/-- The slots a step appended to the pin trace. -/
def SentSlots (s t : State) (sl : List Slot) : Prop := t.trace = afterSlots sl s.trace

/-- Commands issued one after the other, each when the one before is over (R77 (b), R115). -/
def runCommands : List Instr → State → Host.Outcome State Fault Refusal
  | [], s => .next s
  | i :: rest, s =>
    match exec i s with
    | .next t => runCommands rest t
    | .fault e => .fault e
    | .refused e => .refused e

/-- Microseconds a command took (R290). -/
def elapsed (s t : State) : Nat := traceDuration t.trace - traceDuration s.trace

/-! SEARCH seen from its trace: what the triplets of a pass say, without the registers of the
algorithm (R172 gives `lastZeroBit` and `lastForkBit` in these words). -/

/-- A collision at which the pass went the 0 way. -/
def Triplet.zeroAtCollision (x : Triplet) : Bool := !x.id && !x.cmp && !x.written

/-- The fork a pass leaves: `p + 1` for "the most significant bit position where this pass chose 0 at a
collision", 0 for none (R36, R172). -/
def forkLeft (xs : List Triplet) : Nat :=
  xs.zipIdx.foldl (fun f x => if x.1.zeroAtCollision then x.2 + 1 else f) 0

/-- The bit a pass wrote at position `p`; 0 where there was no pass. -/
def writtenAt (xs : List Triplet) (p : Nat) : Bool :=
  match xs[p]? with
  | some x => x.written
  | none => false

/-- The choice at position `p` for a pass that starts from the fork `fork` after the pass `before`:
the four cases of R176, and R178 at a collision. -/
def ChosenRight (fork : Nat) (before : List Triplet) (p : Nat) (x : Triplet) : Prop :=
  (x.id = true ∧ x.cmp = false ∧ x.written = true) ∨
  (x.id = false ∧ x.cmp = true ∧ x.written = false) ∨
  (x.id = false ∧ x.cmp = false ∧
    ((p + 1 = fork ∧ x.written = true) ∨ (p + 1 < fork ∧ x.written = writtenAt before p) ∨
     (fork < p + 1 ∧ x.written = false)))

/-- All positions of a pass, or of the beginning of one. -/
def PassRight (before xs : List Triplet) : Prop :=
  ∀ (p : Nat) (x : Triplet), xs[p]? = some x → ChosenRight (forkLeft before) before p x

/-- The pass before pass `k`; none before the first. -/
def passBefore (passes : List (List Triplet)) (k : Nat) : List Triplet :=
  match k with
  | 0 => []
  | j + 1 => passes.getD j []

/-- Complete passes: 64 positions each, every choice right, and a further pass only while a fork is
left (R187). -/
def PassesRight (passes : List (List Triplet)) : Prop :=
  ∀ (k : Nat) (xs : List Triplet), passes[k]? = some xs →
    xs.length = 64 ∧ PassRight (passBefore passes k) xs ∧ (k ≠ 0 → forkLeft (passBefore passes k) ≠ 0)

/-- The addresses passes produce, pass by pass (R181, R186). -/
def Produced (passes : List (List Triplet)) (addrs : List Address) : Prop :=
  ∀ (k : Nat) (a : Address), addrs[k]? = some a → ∃ xs : List Triplet, passes[k]? = some xs ∧ ∀ p < 64, bitAt a p = writtenAt xs p

/-- A step is safe when it does not fault. -/
def Safe (s : State) : Prop := ∀ e, step s ≠ .fault e

end Sys2Proof.Machine
end

