-- ==== Sys2Proof/Certificates/Slice0/Obligations.lean ====
section
/-! DEFINITION. The statements for the provers. In them, command-local state is left open by
`forgetLocal` (U8), the oracle's answers are `level s 0`, `level s 1`, … (R10), and a trace is given by
its slots (R111). Where a statement names `Seq.idle` or `Idle`, the spec's part is `OP` = IDLE (R40, R42);
`PHASE` = DONE and `SLOT` = 0 beside it are the model's choice (log entry 8). -/

open Sys2Proof Sys2Proof.Machine

/-! ## Encodings -/

/-- R90 to R92: no bit of an encoding is dropped. -/
def Obligations.DecodeOfEncodeIsTheCommand : Prop :=
  ∀ i : Instr, i.wellFormed = true → decode (encode i) = .ok i

/-- R90 to R93: a word has one reading, and only well-formed commands are read. -/
def Obligations.DecodedWordIsItsEncoding : Prop :=
  ∀ (w : CommandWord) (i : Instr), decode w = .ok i → i.wellFormed = true ∧ encode i = w

/-- R92: "A word `w` selects the row for which `w & mask == match`; the rows are disjoint". -/
def Obligations.DecodeFollowsTheOpcodeMap : Prop :=
  (∀ (w : CommandWord) (i : Instr), decode w = .ok i →
    ∃ r ∈ opcodeRows, r.selectedBy w = true ∧ r.mnemonic = i.mnemonic) ∧
  (∀ (w : CommandWord), ∀ r ∈ opcodeRows, r.selectedBy w = true →
    ∃ i, decode w = .ok i ∧ i.mnemonic = r.mnemonic) ∧
  (∀ (w : CommandWord), ∀ r ∈ opcodeRows, ∀ r' ∈ opcodeRows,
    r.selectedBy w = true → r'.selectedBy w = true → r = r')

/-- R93: the three kinds of illegal word. -/
def Obligations.IllegalWordsAreRejectedByName : Prop :=
  ∀ opcode operand : Byte,
    let w : CommandWord := opcode ++ operand
    (decode w = .error .unknownOpcode ↔ opcode = 0x00 ∨ 0x0D#8 ≤ opcode) ∧
    (decode w = .error .operandNotZero ↔
      (opcode = 0x01 ∨ opcode = 0x03 ∨ opcode = 0x05 ∨ opcode = 0x06 ∨ opcode = 0x07 ∨ opcode = 0x09) ∧
      operand ≠ 0) ∧
    (decode w = .error .bitOperandTooWide ↔ opcode = 0x02 ∧ operand >>> 1 ≠ 0)

/-- R92's examples, one word for every row. -/
def Obligations.WordsOfTheOpcodeMapDecode : Prop :=
  decode 0x0100 = .ok .reset ∧ decode 0x0201 = .ok (.writeBit 1) ∧ decode 0x0300 = .ok .readBit ∧
  decode 0x04F0 = .ok (.writeByte 0xF0) ∧ decode 0x0500 = .ok .readByte ∧ decode 0x0600 = .ok .search ∧
  decode 0x0700 = .ok .readAddress ∧ decode 0x0803 = .ok (.select 3) ∧ decode 0x0900 = .ok .crcInit ∧
  decode 0x0A28 = .ok (.crcByte 0x28) ∧ decode 0x0BFF = .ok (.crcCheck 0xFF) ∧
  decode 0x0CFF = .ok (.crcAddr 255)

/-! ## Steps and the host port -/

/-- R64: a `CMD` write to an idle core runs the command its low 16 bits decode to; the step adds only
that the host's input is taken off its list (the list is the model's, log entries 1 and 11). -/
def Obligations.StepRunsTheDecodedCommand : Prop :=
  (∀ (s : State) (v : HostWord) (rest : List HostInput) (i : Instr),
    s.inputs = .write 0x00 4 v :: rest → s.busy = false → decode (v.setWidth 16) = .ok i →
      step s = exec i { s with inputs := rest }) ∧
  (∀ (s : State) (nbits w : Nat) (i : Instr), decodeTableWord nbits w = some i →
      step (s.withFetchWord nbits w) = exec i { s with busy := false, seq := Seq.idle })

/-- R243: IllegalCommand at decode; `ERR <- 4` and nothing else. -/
def Obligations.IllegalWordOnlySetsErr : Prop :=
  ∀ (s : State) (v : HostWord) (e : IllegalWord), Idle s → decode (v.setWidth 16) = .error e →
    hostWrite 0x00 4 v s = .next { s with err := 4 } ∧ postCommand v s = .next { s with err := 4 }

/-- R65: a `CMD` write while busy is dropped. -/
def Obligations.CommandWriteWhileBusyIsDropped : Prop :=
  ∀ (s : State) (v : HostWord), s.busy = true →
    hostWrite 0x00 4 v s = .next { s with ovr := true } ∧ postCommand v s = .next { s with ovr := true }

/-- R29: what sets and what clears `OVR`, over all steps, and that it is STATUS bit 1. -/
def Obligations.OvrIsStickyAndSetOnlyByADroppedWrite : Prop :=
  (∀ (s t : State) (v : HostWord) (rest : List HostInput), s.busy = true →
    (s.inputs = .write 0x00 4 v :: rest ∨ s.inputs = .post v :: rest) → step s = .next t → t.ovr = true) ∧
  (∀ (s t : State) (rest : List HostInput), s.inputs = .coreReset :: rest → step s = .next t →
    t.ovr = false) ∧
  (∀ (s t : State) (v : HostWord) (rest : List HostInput), s.inputs = .write 0x04 4 v :: rest →
    v.getLsbD 1 = true → step s = .next t → t.ovr = false) ∧
  (∀ s t : State, hostRead 0x04 4 s = .next t → t.hostData.getLsbD 1 = s.ovr) ∧
  ∀ s t : State, step s = .next t →
    (s.ovr = false → t.ovr = true → s.busy = true ∧
      ∃ v rest, s.inputs = .write 0x00 4 v :: rest ∨ s.inputs = .post v :: rest) ∧
    (s.ovr = true → t.ovr = false →
      ∃ v rest, s.inputs = .coreReset :: rest ∨
        (s.inputs = .write 0x04 4 v :: rest ∧ v.getLsbD 1 = true))

/-- R61, R62: what the host reads of an idle core, register by register, and that a read leaves the
core as it was. -/
def Obligations.HostReadsTheRegisters : Prop :=
  (∀ (s : State) (addr : Nat), addr % 4 = 0 → addr < 0x20 →
    ∃ v, hostRead addr 4 s = .next { s with hostData := v, freeReads := s.freeReads + 1 }) ∧
  (∀ s t : State, hostRead 0x00 4 s = .next t → t.hostData = 0) ∧
  (∀ s t : State, hostRead 0x04 4 s = .next t →
    t.hostData.getLsbD 0 = s.busy ∧ t.hostData.getLsbD 1 = s.ovr ∧ t.hostData.extractLsb' 2 3 = s.err ∧
    t.hostData.extractLsb' 5 27 = 0) ∧
  (∀ s t : State, Idle s → hostRead 0x08 4 s = .next t →
    t.hostData.extractLsb' 0 8 = s.data ∧ t.hostData.extractLsb' 8 24 = 0) ∧
  (∀ s t : State, Idle s → hostRead 0x0C 4 s = .next t →
    t.hostData.extractLsb' 0 8 = s.crcAcc ∧ t.hostData.getLsbD 8 = s.crcValid ∧
    t.hostData.extractLsb' 9 23 = 0) ∧
  (∀ s t : State, Idle s → regCount s ≤ 256 → hostRead 0x10 4 s = .next t →
    t.hostData.toNat = regCount s) ∧
  (∀ s t : State, hostRead 0x14 4 s = .next t →
    t.hostData.extractLsb' 0 8 = s.regIndex ∧ t.hostData.extractLsb' 8 24 = 0)

/-- R67 and R43, read together: while a command runs, a result register it does not write still reads its
content, the window on the registry too. R67 says which reads are open; that the others show the content
is DEDUCED (log entry 15), and so is the window's 0 at or beyond REG_DEPTH (R68) while a command runs. -/
def Obligations.ReadsWhileBusySettled : Prop :=
  ∀ (s t : State) (i : Instr), s.seq.op = some i →
    (i ≠ .readBit → i ≠ .readByte → hostRead 0x08 4 s = .next t → t.hostData = s.data.setWidth 32) ∧
    (i ≠ .readAddress → hostRead 0x0C 4 s = .next t → t.hostData = crcWord s) ∧
    (i ≠ .search → i ≠ .readAddress → regCount s ≤ 256 → hostRead 0x10 4 s = .next t →
      t.hostData.toNat = regCount s) ∧
    (∀ a : Address, i ≠ .search → i ≠ .readAddress → regCount s ≤ s.regDepth →
      s.registry[s.regIndex.toNat]? = some a →
        (hostRead 0x18 4 s = .next t → t.hostData = a.extractLsb' 0 32) ∧
        (hostRead 0x1C 4 s = .next t → t.hostData = a.extractLsb' 32 32)) ∧
    (i ≠ .search → i ≠ .readAddress → s.regDepth ≤ s.regIndex.toNat →
      (hostRead 0x18 4 s = .next t → t.hostData = 0) ∧ (hostRead 0x1C 4 s = .next t → t.hostData = 0))

/-- R68: the window on the registry. -/
def Obligations.WindowShowsTheEntry : Prop :=
  ∀ (s t u : State), Idle s → regCount s ≤ s.regDepth →
    hostRead 0x18 4 s = .next t → hostRead 0x1C 4 s = .next u →
    (∀ a, s.registry[s.regIndex.toNat]? = some a →
      t.hostData = a.extractLsb' 0 32 ∧ u.hostData = a.extractLsb' 32 32) ∧
    (s.regDepth ≤ s.regIndex.toNat → t.hostData = 0 ∧ u.hostData = 0)

/-- R63: host writes outside `CMD`. -/
def Obligations.HostWritesOfTheOtherRegisters : Prop :=
  ∀ (s : State) (v : HostWord),
    hostWrite 0x04 4 v s = .next { s with ovr := s.ovr && !v.getLsbD 1 } ∧
    hostWrite 0x14 4 v s = .next { s with regIndex := v.extractLsb' 0 8 } ∧
    (∀ addr ∈ [0x08, 0x0C, 0x10, 0x18, 0x1C], hostWrite addr 4 v s = .next s)

/-- R66: accesses that are not one aligned 32-bit word are refused, by name. -/
def Obligations.OnlyAlignedWordsAreAccepted : Prop :=
  ∀ (s : State) (addr n : Nat) (v : HostWord), (addr % 4 ≠ 0 ∨ n ≠ 4) →
    hostRead addr n s = .refused .accessNotAlignedWord ∧
    hostWrite addr n v s = .refused .accessNotAlignedWord

/-- R42, R270: what reset leaves, and that the core, with no input, then does nothing by itself (that a
step without an input is idle time is the model's, log entry 1). -/
def Obligations.ResetLeavesAnIdleEmptyCore : Prop :=
  State.reset.registry = [] ∧ State.reset.data = 0 ∧ State.reset.crcAcc = 0 ∧
  State.reset.crcValid = false ∧ State.reset.err = 0 ∧ State.reset.busy = false ∧
  State.reset.ovr = false ∧ State.reset.regIndex = 0 ∧ State.reset.dqOe = false ∧
  State.reset.seq = Seq.idle ∧ step State.reset = .next State.reset

/-- R270, R271: the reset input at any moment, in mid-command too. The `Z` event and what is kept
around the core are the model's choice (log entry 10). -/
def Obligations.CoreResetAbandonsTheCommand : Prop :=
  ∀ s : State, ∃ t, hostInput .coreReset s = .next t ∧
    t.registry = [] ∧ t.data = 0 ∧ t.crcAcc = 0 ∧ t.crcValid = false ∧ t.err = 0 ∧ t.busy = false ∧
    t.ovr = false ∧ t.regIndex = 0 ∧ t.dqOe = false ∧ t.seq = Seq.idle ∧ t.regDepth = s.regDepth ∧
    t.trace = (if s.dqOe then .Z :: s.trace else s.trace) ∧ t.line = s.line ∧ t.inputs = s.inputs

/-! ## The CRC-8 engine -/

/-- R121 to R123: the table form is the bit-serial form, and what the tables hold. The form itself is
"[from general knowledge, not in source]" and the spec's decision D27 (log entry 16). -/
def Obligations.CrcTablesAreTheBitSerialForm : Prop :=
  (∀ n : Nat, n < 16 → crcTableLow[n]? = some (crcUpdate 0 (BitVec.ofNat 8 n)) ∧
    crcTableHigh[n]? = some (crcUpdate 0 (BitVec.ofNat 8 n <<< 4))) ∧
  (∀ acc byte : Byte, crcUpdateTable acc byte = crcUpdate acc byte)

/-- R126, R127: empty input, round trip, zero residue, linearity, dependence. R127 marks the last three
"[derived: …]"; the form of the CRC is the spec's decision D27 (log entry 16). -/
def Obligations.CrcLaws : Prop :=
  crc8 [] = 0 ∧ (∀ c : Byte, crcValidFor [] c = true ↔ c = 0) ∧
  (∀ (buffer : List Byte),
    let whole := buffer ++ [crc8 buffer]
    crcValidFor (whole.take buffer.length) (whole.getD buffer.length 0) = true ∧ crc8 whole = 0) ∧
  (∀ a : Address, validAddress a = true ↔ crc8 (allBytes a) = 0) ∧
  (∀ x y : List Byte, x.length = y.length →
    crc8 (List.zipWith (· ^^^ ·) x y) = crc8 x ^^^ crc8 y) ∧
  (∀ n : Nat, crc8 (List.replicate n 0) = 0) ∧
  (∀ acc byte acc' byte' : Byte, acc ^^^ byte = acc' ^^^ byte' →
    crcUpdate acc byte = crcUpdate acc' byte')

/-- R130. -/
def Obligations.CrcInitClearsTheEngine : Prop :=
  encode .crcInit = 0x0900 ∧
  ∀ s : State, exec .crcInit s = .next { s with err := 0, crcAcc := 0, crcValid := false }

/-- R131. -/
def Obligations.CrcByteUpdatesTheAccumulator : Prop :=
  (∀ v : Byte, encode (.crcByte v) = 0x0A00 ||| v.setWidth 16) ∧
  (∀ (s : State) (v : Byte),
    exec (.crcByte v) s = .next { s with err := 0, crcAcc := crcUpdateTable s.crcAcc v }) ∧
  (∀ s : State, exec (.crcByte s.crcAcc) s = .next { s with err := 0, crcAcc := 0 }) ∧
  (∀ s : State, s.crcAcc = 0 → exec (.crcByte 0) s = .next { s with err := 0 }) ∧
  (∀ s : State, runCommands [.crcInit, .crcByte 0x28] s =
    .next { s with err := 0, crcAcc := 0xE1, crcValid := false })

/-- R132: a mismatch is a flag, not an error. -/
def Obligations.CrcCheckComparesTheAccumulator : Prop :=
  (∀ v : Byte, encode (.crcCheck v) = 0x0B00 ||| v.setWidth 16) ∧
  (∀ (s : State) (v : Byte),
    exec (.crcCheck v) s = .next { s with err := 0, crcValid := decide (s.crcAcc = v) }) ∧
  (∀ (s : State) (v : Byte), runCommands [.crcInit, .crcCheck v] s =
    .next { s with err := 0, crcAcc := 0, crcValid := decide (v = 0) }) ∧
  (∀ s : State, runCommands [.crcInit, .crcByte 0x28, .crcCheck 0xE1] s =
    .next { s with err := 0, crcAcc := 0xE1, crcValid := true })

/-- R133: the CRC of a registry entry, or BadIndex with nothing else changed. -/
def Obligations.CrcAddrChecksAnEntry : Prop :=
  (∀ i : Byte, encode (.crcAddr i) = 0x0C00 ||| i.setWidth 16) ∧
  (∀ (s : State) (i : Byte) (a : Address), s.registry[i.toNat]? = some a →
    exec (.crcAddr i) s = .next { s with
      err := 0
      crcAcc := crc8 ((List.range 7).map fun k => a.extractLsb' (8 * k) 8)
      crcValid := decide (crc8 ((List.range 7).map fun k => a.extractLsb' (8 * k) 8) = a.extractLsb' 56 8) }) ∧
  (∀ (s : State) (i : Byte), s.registry[i.toNat]? = some 0 →
    exec (.crcAddr i) s = .next { s with err := 0, crcAcc := 0, crcValid := true }) ∧
  (∀ s : State, s.registry[0]? = some 0x2900000000000128 →
    exec (.crcAddr 0) s = .next { s with err := 0, crcAcc := 0x29, crcValid := true }) ∧
  (∀ (s : State) (i : Byte), Idle s → regCount s ≤ i.toNat →
    exec (.crcAddr i) s = .next { s with err := 5 })

/-- The command sequence computes the function: R134, "[derived: from rules R124, R125, R130, R131, R132]". -/
def Obligations.CrcCommandsComputeTheFunction : Prop :=
  ∀ (s : State) (bytes : List Byte) (c : Byte),
    runCommands ([.crcInit] ++ bytes.map .crcByte ++ [.crcCheck c]) s =
      .next { s with err := 0, crcAcc := crc8 bytes, crcValid := crcValidFor bytes c }

/-! ## Bit and byte transport -/

/-- R140 to R142: the whole pulse is sent whatever it samples; high at the sample is NoPresence. -/
def Obligations.ResetSendsAPulseAndTestsPresence : Prop :=
  encode .reset = 0x0100 ∧
  ∀ s : State, ∃ t, exec .reset s = .next t ∧ forgetLocal t = forgetLocal { s with
    err := if level s 0 then 1 else 0
    busy := false, seq := Seq.idle, dqOe := false
    line := s.line.drop 1, samples := s.samples + 1
    trace := [.W 410, .S (level s 0), .W 70, .Z, .W 480, .L] ++ s.trace }

/-- R143 to R145: one write slot, nothing sampled; the operand's upper bits must be 0. -/
def Obligations.WriteBitSendsOneSlot : Prop :=
  (∀ operand : Byte, operand >>> 1 = 0 → encode (.writeBit operand) = 0x0200 ||| operand.setWidth 16) ∧
  (∀ operand : Byte, operand >>> 1 ≠ 0 →
    decode (0x0200 ||| operand.setWidth 16) = .error .bitOperandTooWide) ∧
  (∀ (s : State) (operand : Byte), ∃ t, exec (.writeBit operand) s = .next t ∧
    forgetLocal t = forgetLocal { s with
      err := 0, busy := false, seq := Seq.idle, dqOe := false
      trace := (if operand.getLsbD 0 then [.W 60, .Z, .W 5, .L] else [.W 5, .Z, .W 60, .L]) ++ s.trace })

/-- R147, R148: one read slot; the sampled level goes to `DATA`, zero-extended. -/
def Obligations.ReadBitStoresTheSample : Prop :=
  encode .readBit = 0x0300 ∧
  ∀ s : State, ∃ t, exec .readBit s = .next t ∧ forgetLocal t = forgetLocal { s with
    err := 0, busy := false, seq := Seq.idle, dqOe := false
    data := if level s 0 then 0x01 else 0x00
    line := s.line.drop 1, samples := s.samples + 1
    trace := [.W 60, .S (level s 0), .W 8, .Z, .W 3, .L] ++ s.trace }

/-- R160, R161: eight write slots, bit 0 first, nothing sampled. -/
def Obligations.WriteByteSendsEightSlots : Prop :=
  (∀ v : Byte, encode (.writeByte v) = 0x0400 ||| v.setWidth 16) ∧
  ∀ (s : State) (v : Byte), ∃ t, exec (.writeByte v) s = .next t ∧
    forgetLocal t = forgetLocal { s with
      err := 0, busy := false, seq := Seq.idle, dqOe := false
      trace := afterSlots [.w v[0], .w v[1], .w v[2], .w v[3], .w v[4], .w v[5], .w v[6], .w v[7]] s.trace }

/-- R163, R164: eight read slots; the `k`-th sample is bit `k` of `DATA` (R164: "[derived: the closed form
follows from the loop]"). -/
def Obligations.ReadByteAssemblesEightSamples : Prop :=
  encode .readByte = 0x0500 ∧
  ∀ s : State, ∃ t, exec .readByte s = .next t ∧
    (∀ k < 8, t.data.getLsbD k = level s k) ∧
    forgetLocal t = forgetLocal { s with
      err := 0, busy := false, seq := Seq.idle, dqOe := false
      data := t.data
      line := s.line.drop 8, samples := s.samples + 8
      trace := afterSlots ((List.range 8).map fun k => .r (level s k)) s.trace }

/-- R166, "[derived: from rules R161, R164 and 41_bit_transport.md rules R143, R147]": a byte command is
its eight bit commands back to back, but for `DATA` written once. -/
def Obligations.ByteCommandsAreEightBitCommands : Prop :=
  (∀ (s t u : State) (v : Byte), exec (.writeByte v) s = .next t →
    runCommands ((List.range 8).map fun k => .writeBit (if v.getLsbD k then 1 else 0)) s = .next u →
    forgetLocal t = forgetLocal u) ∧
  (∀ (s t u : State), exec .readByte s = .next t →
    runCommands (List.replicate 8 .readBit) s = .next u →
    forgetLocal { t with data := 0 } = forgetLocal { u with data := 0 })

/-! ## Addressing -/

/-- R200 to R204: READ_ADDRESS in its three ends: nobody there, a CRC mismatch, an address. -/
def Obligations.ReadAddressReadsAndChecks : Prop :=
  encode .readAddress = 0x0700 ∧
  (∀ s : State, level s 0 = true → ∃ t, exec .readAddress s = .next t ∧
    forgetLocal t = forgetLocal { s with
      err := 1, busy := false, seq := Seq.idle, dqOe := false
      line := s.line.drop 1, samples := s.samples + 1, trace := afterSlots [.rst true] s.trace }) ∧
  (∀ (s : State) (a : Address), level s 0 = false → (∀ p < 64, level s (1 + p) = bitAt a p) →
    ∃ t, exec .readAddress s = .next t ∧ forgetLocal t = forgetLocal { s with
      err := if crc8 (lowBytes a) = byteOf a 7 then 0 else 2
      busy := false, seq := Seq.idle, dqOe := false
      registry := if crc8 (lowBytes a) = byteOf a 7 then [a] else s.registry
      crcAcc := crc8 (lowBytes a), crcValid := decide (crc8 (lowBytes a) = byteOf a 7)
      line := s.line.drop 65, samples := s.samples + 65
      trace := afterSlots ([.rst false] ++ byteSlots 0x33 ++
        (List.range 64).map fun p => .r (bitAt a p)) s.trace })

/-- R206 to R209: SELECT in its three ends: no entry, nobody there, the entry sent. -/
def Obligations.SelectSendsTheEntry : Prop :=
  (∀ i : Byte, encode (.select i) = 0x0800 ||| i.setWidth 16) ∧
  (∀ (s : State) (i : Byte), Idle s → regCount s ≤ i.toNat →
    exec (.select i) s = .next { s with err := 5 }) ∧
  (∀ (s : State) (i : Byte), i.toNat < regCount s → level s 0 = true →
    ∃ t, exec (.select i) s = .next t ∧ forgetLocal t = forgetLocal { s with
      err := 1, busy := false, seq := Seq.idle, dqOe := false
      line := s.line.drop 1, samples := s.samples + 1, trace := afterSlots [.rst true] s.trace }) ∧
  (∀ (s : State) (i : Byte) (a : Address), s.registry[i.toNat]? = some a → level s 0 = false →
    ∃ t, exec (.select i) s = .next t ∧ forgetLocal t = forgetLocal { s with
      err := 0, busy := false, seq := Seq.idle, dqOe := false
      line := s.line.drop 1, samples := s.samples + 1
      trace := afterSlots ([.rst false] ++ byteSlots 0x55 ++ addressSlots a) s.trace })

/-- R210 on the ideal bus (log entry 17): a SELECT that succeeds leaves active the slaves with that address. -/
def Obligations.SelectLeavesOnlyTheAddressedSlaveActive : Prop :=
  ∀ (s t : State) (i : Byte) (a : Address) (b c : Bus) (sl : List Slot),
    s.registry[i.toNat]? = some a → exec (.select i) s = .next t → SentSlots s t sl →
    busRun b sl = some c → t.err = 0 →
      c.active = b.slaves.filter (fun x => x.addr == a) ∧ c.mode = .func

/-- R200 on the ideal bus (log entry 17) with one slave whose address is valid: READ_ADDRESS stores it. -/
def Obligations.ReadAddressFindsTheLoneSlave : Prop :=
  ∀ (s t : State) (x : Slave) (b c : Bus) (sl : List Slot),
    b.slaves = [x] → validAddress x.addr = true → exec .readAddress s = .next t → SentSlots s t sl →
    busRun b sl = some c → t.err = 0 ∧ t.registry = [x.addr] ∧ t.crcValid = true

/-! ## Search -/

/-- R171 to R188, R192, R193: SEARCH for every oracle, seen from its trace: complete passes whose every
choice is right, each appended, then one of the three ends. -/
def Obligations.SearchFollowsTheAlgorithm : Prop :=
  ∀ s : State, ∃ (t : State) (passes : List (List Triplet)) (tail : List Slot),
    exec .search s = .next t ∧
    SentSlots s t (passes.flatMap passSlots ++ tail) ∧
    PassesRight passes ∧ Produced passes t.registry ∧
    ((t.err = 0 ∧ tail = [] ∧ passes ≠ [] ∧ regCount t = passes.length ∧
        forkLeft (passBefore passes passes.length) = 0) ∨
     (t.err = 6 ∧ tail = [] ∧ passes.length = s.regDepth + 1 ∧ regCount t = s.regDepth) ∨
     (t.err = 1 ∧ regCount t = passes.length ∧
        (passes ≠ [] → forkLeft (passBefore passes passes.length) ≠ 0) ∧
        (tail = [.rst true] ∨
         ∃ xs, xs.length < 64 ∧ PassRight (passBefore passes passes.length) xs ∧
          tail = passSlots xs ++ [.r true, .r true]))) ∧
    regCount t ≤ s.regDepth ∧ t.busy = false ∧ t.seq = Seq.idle ∧ t.dqOe = false

/-- R191: one slave, one pass, no collision. -/
def Obligations.SearchOfOneSlaveTakesOnePass : Prop :=
  ∀ (s : State) (a : Address), 1 ≤ s.regDepth → level s 0 = false →
    (∀ p < 64, level s (1 + 2 * p) = bitAt a p ∧ level s (2 + 2 * p) = !bitAt a p) →
    ∃ t, exec .search s = .next t ∧ forgetLocal t = forgetLocal { s with
      err := 0, busy := false, seq := Seq.idle, dqOe := false, registry := [a]
      line := s.line.drop 129, samples := s.samples + 129
      trace := afterSlots (passSlots ((List.range 64).map fun p =>
        ⟨bitAt a p, !bitAt a p, bitAt a p⟩)) s.trace }

/-- R189, R190, R193: on the ideal bus with N distinct slaves that fit the registry, SEARCH finds each of
them once, in discovery order, in exactly N passes. The spec derives it ("a property to be proved of rule
R188 over the bus model"); the bus is the fixture of log entry 17. -/
def Obligations.SearchFindsEverySlaveOnce : Prop :=
  ∀ (s t : State) (b c : Bus) (sl : List Slot),
    b.slaves ≠ [] → (busAddresses b).Nodup → b.slaves.length ≤ s.regDepth →
    exec .search s = .next t → SentSlots s t sl → busRun b sl = some c →
      t.err = 0 ∧ t.registry.Perm (busAddresses b) ∧ t.registry.Pairwise discoveredBefore ∧
      elapsed s t = 14728 * b.slaves.length

/-- X6, R191: an empty bus. RESET, SEARCH and READ_ADDRESS all raise NoPresence after one pulse, and a
registry that was empty stays empty; SEARCH empties it. -/
def Obligations.EmptyBusRaisesNoPresence : Prop :=
  ∀ s : State, level s 0 = true → ∀ i ∈ [Instr.reset, .search, .readAddress],
    ∃ t, exec i s = .next t ∧ t.err = 1 ∧ SentSlots s t [.rst true] ∧
      (i = .search ∨ s.registry = [] → t.registry = []) ∧
      (i ≠ .search → t.registry = s.registry) ∧ t.data = s.data ∧ t.crcAcc = s.crcAcc ∧
      t.crcValid = s.crcValid

/-! ## Rules of the whole machine -/

/-- R43: "a command writes nothing that is not in its row"; and the pin is released when a command
with pin events ends (R31). The spec marks both "[derived: …]". -/
def Obligations.CommandsKeepToTheirWriteSets : Prop :=
  ∀ (i : Instr) (s t : State), exec i s = .next t →
    t.ovr = s.ovr ∧ t.regIndex = s.regIndex ∧ t.regDepth = s.regDepth ∧ t.inputs = s.inputs ∧
    t.hostData = s.hostData ∧ t.freeReads = s.freeReads ∧
    (i ≠ .search → i ≠ .readAddress → t.registry = s.registry) ∧
    (i ≠ .readBit → i ≠ .readByte → t.data = s.data) ∧
    (i ≠ .readAddress → i ≠ .crcInit → (∀ v, i ≠ .crcByte v) → (∀ k, i ≠ .crcAddr k) →
      t.crcAcc = s.crcAcc) ∧
    (i ≠ .readAddress → i ≠ .crcInit → (∀ v, i ≠ .crcCheck v) → (∀ k, i ≠ .crcAddr k) →
      t.crcValid = s.crcValid) ∧
    (s.dqOe = false → t.dqOe = false) ∧
    ((i = .reset ∨ i = .readBit ∨ i = .readByte ∨ i = .search ∨ i = .readAddress ∨
      (∃ o, i = .writeBit o) ∨ (∃ v, i = .writeByte v)) → t.dqOe = false)

/-- R240 to R242, R249, R250: which errors each command can end with; nothing of the error before it
is left. -/
def Obligations.CommandsRaiseOnlyTheirOwnErrors : Prop :=
  ∀ (i : Instr) (s t : State), exec i s = .next t →
    match i with
    | .reset => t.err = 0 ∨ t.err = 1
    | .writeBit _ => t.err = 0
    | .readBit => t.err = 0
    | .writeByte _ => t.err = 0
    | .readByte => t.err = 0
    | .search => t.err = 0 ∨ t.err = 1 ∨ t.err = 6
    | .readAddress => t.err = 0 ∨ t.err = 1 ∨ t.err = 2
    | .select k => if k.toNat < regCount s then t.err = 0 ∨ t.err = 1 else t.err = 5
    | .crcInit => t.err = 0
    | .crcByte _ => t.err = 0
    | .crcCheck _ => t.err = 0
    | .crcAddr k => if k.toNat < regCount s then t.err = 0 else t.err = 5

/-- R110, R149, R246, R248 (R149 and R248 are "[derived: …]"): a command appends whole slots to the trace, an aborted one too, and their
samples are the oracle's next answers, in order. -/
def Obligations.CommandsSendWholeSlotsAndSampleInOrder : Prop :=
  ∀ (i : Instr) (s t : State), exec i s = .next t →
    ∃ sl, SentSlots s t sl ∧ slotSamples sl = levels s (slotSamples sl).length ∧
      t.line = s.line.drop (slotSamples sl).length ∧ t.samples = s.samples + (slotSamples sl).length

/-- R290: durations, "[derived: from the rules named in the last column]" (log entry 21). -/
def Obligations.CommandsTakeTheirDurations : Prop :=
  ∀ (i : Instr) (s t : State), exec i s = .next t →
    match i with
    | .reset => elapsed s t = 960
    | .writeBit _ => elapsed s t = 65
    | .readBit => elapsed s t = 71
    | .writeByte _ => elapsed s t = 520
    | .readByte => elapsed s t = 568
    | .search => (t.err = 0 → elapsed s t = 14728 * regCount t) ∧
        (level s 0 = true → elapsed s t = 960)
    | .readAddress => if t.err = 1 then elapsed s t = 960 else elapsed s t = 6024
    | .select _ => if t.err = 5 then elapsed s t = 0
        else if t.err = 1 then elapsed s t = 960 else elapsed s t = 5640
    | .crcInit => elapsed s t = 0
    | .crcByte _ => elapsed s t = 0
    | .crcCheck _ => elapsed s t = 0
    | .crcAddr _ => elapsed s t = 0

/-- R291, "[derived: from rule R290 and 43_search.md rule R194]": every command ends, and how late at most. -/
def Obligations.EveryCommandEndsInBoundedTime : Prop :=
  ∀ (i : Instr) (s : State), ∃ t, exec i s = .next t ∧ (s.busy = false → t.busy = false) ∧
    elapsed s t ≤ (s.regDepth + 1) * 14728

/-- R32: "no value computed by one command is read by a later one" but for the registry, the pin and
the result state: command-local state decides nothing that is seen. -/
def Obligations.CommandLocalStateIsNeverRead : Prop :=
  ∀ (i : Instr) (s s' t t' : State), forgetLocal s = forgetLocal s' →
    exec i s = .next t → exec i s' = .next t' → forgetLocal t = forgetLocal t'

/-- The invariant holds after reset. -/
def Obligations.ResetMeetsTheInvariant : Prop := Inv State.reset

/-- Every step keeps the invariant: ranges (R9, R22, R36, R37, R39, R41), `ERR` never 3 or 7 (R240),
and the position and the pin of a running command (R28, R31, R40). -/
def Obligations.EveryStepKeepsTheInvariant : Prop :=
  ∀ s t : State, Inv s → step s = .next t → Inv t

/-- 00_scope.md section 7: `Sample()` is "legal only while `DQ_OE = 0`"; no step from a state that meets
the invariant faults. -/
def Obligations.NoStepFaultsUnderTheInvariant : Prop :=
  ∀ s : State, Inv s → Safe s

/-- R28, R40, R41 (the small steps are the model's, log entries 8 and 12): the sequencer's small steps, from the first cycle of a command with pin events, reach
the state the command's meaning gives, and `BUSY` is 1 until then. -/
def Obligations.SmallStepsReachTheCommandsEnd : Prop :=
  ∀ (i : Instr) (s : State), zeroTime i s = false →
    ∃ n, seqRun n (beginCommand i s) = exec i s ∧
      ∀ m < n, ∃ u, seqRun m (beginCommand i s) = .next u ∧ u.busy = true ∧ u.err = 0

/-- R28, R64: what a host that goes on at once sees of the first cycle (`postCommand` is the model's, log
entry 12). -/
def Obligations.PostedCommandIsAcceptedInOneCycle : Prop :=
  ∀ (s : State) (v : HostWord) (i : Instr), s.busy = false → decode (v.setWidth 16) = .ok i →
    (zeroTime i s = true → postCommand v s = exec i s) ∧
    (zeroTime i s = false → ∃ t, postCommand v s = .next t ∧ t.busy = true ∧ t.err = 0 ∧
      t.seq.op = some i ∧ t.trace = s.trace ∧ t.line = s.line)

/-- R284, R285: a line stuck low passes every check: presence in RESET and SELECT, the address check, the
scratchpad check, and SEARCH runs until RegistryFull (for a depth in R9's range); an idle line reads ones,
without an error. The spec marks both "[derived: …]". -/
def Obligations.StuckAndIdleLines : Prop :=
  (∀ s : State, (∀ k < 65, level s k = false) →
    ∃ t u v, exec .reset s = .next t ∧ t.err = 0 ∧
      exec .readAddress s = .next u ∧ u.err = 0 ∧ u.registry = [0] ∧ u.crcValid = true ∧
      exec .readByte s = .next v ∧ v.err = 0 ∧ v.data = 0x00) ∧
  (∀ (s : State) (index : Byte), index.toNat < regCount s → level s 0 = false →
    ∃ t, exec (.select index) s = .next t ∧ t.err = 0) ∧
  (∀ s : State, s.regDepth ≤ 256 → (∀ k < (s.regDepth + 1) * 129, level s k = false) →
    ∃ t, exec .search s = .next t ∧ t.err = 6 ∧ regCount t = s.regDepth) ∧
  (∀ (s : State) (index : Byte), Idle s → index.toNat < regCount s → (∀ k < 73, level s k = false) →
    (readTemperatureRaw index s).1 = .ok (0x00, 0x00)) ∧
  (∀ s : State, (∀ k < 8, level s k = true) →
    ∃ t u, exec .readBit s = .next t ∧ t.err = 0 ∧ t.data = 0x01 ∧
      exec .readByte s = .next u ∧ u.err = 0 ∧ u.data = 0xFF)

/-! ## The consumer layer (host software over the commands) -/

/-- R226, R227. That the quotient of a negative odd count is truncated is the spec's G3, "[from general
knowledge, not in source]" (log entry 18). -/
def Obligations.TemperatureArithmetic : Prop :=
  (∀ lo hi : Byte, -20480000 ≤ rawCount lo hi * 625 ∧ rawCount lo hi * 625 ≤ 20479375) ∧
  (∀ lo hi : Byte, (10 ∣ rawCount lo hi * 625) ↔ (2 ∣ rawCount lo hi)) ∧
  (∀ lo hi : Byte, 0 ≤ rawCount lo hi → milliDegrees lo hi = rawCount lo hi * 625 / 10) ∧
  (∀ lo hi : Byte, rawCount lo hi < 0 → milliDegrees lo hi = -((-(rawCount lo hi) * 625) / 10)) ∧
  milliDegrees 0x91 0x01 = 25062 ∧ milliDegrees 0x00 0xFE = -32000 ∧ milliDegrees 0xFF 0xFF = -62

/-- R228, R229: out of range, success and no command at all; in range, these words, and the result is
BadIndex before any event, NoPresence after the pulse, or success after the whole listing. -/
def Obligations.SetResolutionListing : Prop :=
  (∀ (s : State) (index : Byte) (bits : Nat), bits < 9 ∨ 12 < bits →
    setResolution index bits s = (.ok (), s)) ∧
  (∀ (s : State) (index : Byte) (bits : Nat), 9 ≤ bits → bits ≤ 12 → Idle s →
    (regCount s ≤ index.toNat → setResolution index bits s = (.error 5, { s with err := 5 })) ∧
    (index.toNat < regCount s → level s 0 = true →
      (setResolution index bits s).1 = .error 1 ∧ SentSlots s (setResolution index bits s).2 [.rst true]) ∧
    (∀ a : Address, s.registry[index.toNat]? = some a → level s 0 = false →
      (setResolution index bits s).1 = .ok () ∧
      SentSlots s (setResolution index bits s).2
        ([.rst false] ++ byteSlots 0x55 ++ addressSlots a ++ byteSlots 0x4E ++ byteSlots 0xFF ++
          byteSlots 0x00 ++ byteSlots (BitVec.ofNat 8 ((bits - 9) * 32 + 0x1F))))) ∧
  (∀ (index : Byte) (bits : Nat), 9 ≤ bits → bits ≤ 12 →
    assemble (Pseudo.setResolution index bits).expand =
      [0x0800 ||| index.setWidth 16, 0x044E, 0x04FF, 0x0400,
       0x0400 ||| (BitVec.ofNat 16 ((bits - 9) * 32) ||| 0x1F)])

/-- R222, R223, R225: what ReadTemperatureRaw returns, from the oracle: the presence sample of SELECT,
then nine bytes. -/
def Obligations.ReadTemperatureRawChecksTheScratchpad : Prop :=
  ∀ (s : State) (index : Byte) (x : Scratchpad), Idle s → index.toNat < regCount s → level s 0 = false →
    (∀ j < 9, ∀ k < 8, level s (1 + 8 * j + k) = (x.bytes.getD j 0).getLsbD k) →
    (readTemperatureRaw index s).1 =
      (if x.valid then .ok (x.rawLow, x.rawHigh) else .error 3) ∧
    (readTemperatureRaw index s).2.err = 0 ∧
    (readTemperatureRaw index s).2.crcValid = x.valid ∧
    (readTemperatureRaw index s).2.registry = s.registry

/-- R284, R194, R188 on a line stuck low (V-S11): SEARCH walks the addresses in discovery order, the `k`-th
with the bits of `k` from position 63 down, until RegistryFull, after REG_DEPTH + 1 passes (R291's longest
command). The spec marks R188, R194 and R284 "[derived: …]". -/
def Obligations.SearchOnAStuckLowLineFillsTheRegistry : Prop :=
  ∀ s : State, s.regDepth ≤ 256 → (∀ k < (s.regDepth + 1) * 129, level s k = false) →
    ∃ t, exec .search s = .next t ∧ t.err = 6 ∧ regCount t = s.regDepth ∧
      (∀ (k : Nat) (a : Address), t.registry[k]? = some a → ∀ p < 64, bitAt a p = k.testBit (63 - p)) ∧
      t.samples = s.samples + (s.regDepth + 1) * 129 ∧ elapsed s t = (s.regDepth + 1) * 14728
end

