-- ==== Sys2Proof/Laws/State.lean ====
section
/-! SUPPORT. One lemma per field per update for the operations that update the state by a record, each
true by rfl: no later proof unfolds the update. -/

namespace Sys2Proof.Machine

@[simp] theorem driveLow_registry (s : State) : (driveLow s).registry = s.registry := rfl
@[simp] theorem driveLow_dqOe (s : State) : (driveLow s).dqOe = true := rfl
@[simp] theorem driveLow_data (s : State) : (driveLow s).data = s.data := rfl
@[simp] theorem driveLow_crcAcc (s : State) : (driveLow s).crcAcc = s.crcAcc := rfl
@[simp] theorem driveLow_crcValid (s : State) : (driveLow s).crcValid = s.crcValid := rfl
@[simp] theorem driveLow_err (s : State) : (driveLow s).err = s.err := rfl
@[simp] theorem driveLow_busy (s : State) : (driveLow s).busy = s.busy := rfl
@[simp] theorem driveLow_ovr (s : State) : (driveLow s).ovr = s.ovr := rfl
@[simp] theorem driveLow_regIndex (s : State) : (driveLow s).regIndex = s.regIndex := rfl
@[simp] theorem driveLow_rom (s : State) : (driveLow s).rom = s.rom := rfl
@[simp] theorem driveLow_lastZero (s : State) : (driveLow s).lastZero = s.lastZero := rfl
@[simp] theorem driveLow_lastFork (s : State) : (driveLow s).lastFork = s.lastFork := rfl
@[simp] theorem driveLow_bitPos (s : State) : (driveLow s).bitPos = s.bitPos := rfl
@[simp] theorem driveLow_idBit (s : State) : (driveLow s).idBit = s.idBit := rfl
@[simp] theorem driveLow_cmpBit (s : State) : (driveLow s).cmpBit = s.cmpBit := rfl
@[simp] theorem driveLow_shift (s : State) : (driveLow s).shift = s.shift := rfl
@[simp] theorem driveLow_bitIdx (s : State) : (driveLow s).bitIdx = s.bitIdx := rfl
@[simp] theorem driveLow_timer (s : State) : (driveLow s).timer = s.timer := rfl
@[simp] theorem driveLow_seq (s : State) : (driveLow s).seq = s.seq := rfl
@[simp] theorem driveLow_latch (s : State) : (driveLow s).latch = s.latch := rfl
@[simp] theorem driveLow_regDepth (s : State) : (driveLow s).regDepth = s.regDepth := rfl
@[simp] theorem driveLow_line (s : State) : (driveLow s).line = s.line := rfl
@[simp] theorem driveLow_samples (s : State) : (driveLow s).samples = s.samples := rfl
@[simp] theorem driveLow_trace (s : State) : (driveLow s).trace = .L :: s.trace := rfl
@[simp] theorem driveLow_inputs (s : State) : (driveLow s).inputs = s.inputs := rfl
@[simp] theorem driveLow_hostData (s : State) : (driveLow s).hostData = s.hostData := rfl
@[simp] theorem driveLow_freeReads (s : State) : (driveLow s).freeReads = s.freeReads := rfl

@[simp] theorem release_registry (s : State) : (release s).registry = s.registry := rfl
@[simp] theorem release_dqOe (s : State) : (release s).dqOe = false := rfl
@[simp] theorem release_data (s : State) : (release s).data = s.data := rfl
@[simp] theorem release_crcAcc (s : State) : (release s).crcAcc = s.crcAcc := rfl
@[simp] theorem release_crcValid (s : State) : (release s).crcValid = s.crcValid := rfl
@[simp] theorem release_err (s : State) : (release s).err = s.err := rfl
@[simp] theorem release_busy (s : State) : (release s).busy = s.busy := rfl
@[simp] theorem release_ovr (s : State) : (release s).ovr = s.ovr := rfl
@[simp] theorem release_regIndex (s : State) : (release s).regIndex = s.regIndex := rfl
@[simp] theorem release_rom (s : State) : (release s).rom = s.rom := rfl
@[simp] theorem release_lastZero (s : State) : (release s).lastZero = s.lastZero := rfl
@[simp] theorem release_lastFork (s : State) : (release s).lastFork = s.lastFork := rfl
@[simp] theorem release_bitPos (s : State) : (release s).bitPos = s.bitPos := rfl
@[simp] theorem release_idBit (s : State) : (release s).idBit = s.idBit := rfl
@[simp] theorem release_cmpBit (s : State) : (release s).cmpBit = s.cmpBit := rfl
@[simp] theorem release_shift (s : State) : (release s).shift = s.shift := rfl
@[simp] theorem release_bitIdx (s : State) : (release s).bitIdx = s.bitIdx := rfl
@[simp] theorem release_timer (s : State) : (release s).timer = s.timer := rfl
@[simp] theorem release_seq (s : State) : (release s).seq = s.seq := rfl
@[simp] theorem release_latch (s : State) : (release s).latch = s.latch := rfl
@[simp] theorem release_regDepth (s : State) : (release s).regDepth = s.regDepth := rfl
@[simp] theorem release_line (s : State) : (release s).line = s.line := rfl
@[simp] theorem release_samples (s : State) : (release s).samples = s.samples := rfl
@[simp] theorem release_trace (s : State) : (release s).trace = .Z :: s.trace := rfl
@[simp] theorem release_inputs (s : State) : (release s).inputs = s.inputs := rfl
@[simp] theorem release_hostData (s : State) : (release s).hostData = s.hostData := rfl
@[simp] theorem release_freeReads (s : State) : (release s).freeReads = s.freeReads := rfl

@[simp] theorem wait_registry (n : Nat) (s : State) : (wait n s).registry = s.registry := rfl
@[simp] theorem wait_dqOe (n : Nat) (s : State) : (wait n s).dqOe = s.dqOe := rfl
@[simp] theorem wait_data (n : Nat) (s : State) : (wait n s).data = s.data := rfl
@[simp] theorem wait_crcAcc (n : Nat) (s : State) : (wait n s).crcAcc = s.crcAcc := rfl
@[simp] theorem wait_crcValid (n : Nat) (s : State) : (wait n s).crcValid = s.crcValid := rfl
@[simp] theorem wait_err (n : Nat) (s : State) : (wait n s).err = s.err := rfl
@[simp] theorem wait_busy (n : Nat) (s : State) : (wait n s).busy = s.busy := rfl
@[simp] theorem wait_ovr (n : Nat) (s : State) : (wait n s).ovr = s.ovr := rfl
@[simp] theorem wait_regIndex (n : Nat) (s : State) : (wait n s).regIndex = s.regIndex := rfl
@[simp] theorem wait_rom (n : Nat) (s : State) : (wait n s).rom = s.rom := rfl
@[simp] theorem wait_lastZero (n : Nat) (s : State) : (wait n s).lastZero = s.lastZero := rfl
@[simp] theorem wait_lastFork (n : Nat) (s : State) : (wait n s).lastFork = s.lastFork := rfl
@[simp] theorem wait_bitPos (n : Nat) (s : State) : (wait n s).bitPos = s.bitPos := rfl
@[simp] theorem wait_idBit (n : Nat) (s : State) : (wait n s).idBit = s.idBit := rfl
@[simp] theorem wait_cmpBit (n : Nat) (s : State) : (wait n s).cmpBit = s.cmpBit := rfl
@[simp] theorem wait_shift (n : Nat) (s : State) : (wait n s).shift = s.shift := rfl
@[simp] theorem wait_bitIdx (n : Nat) (s : State) : (wait n s).bitIdx = s.bitIdx := rfl
@[simp] theorem wait_timer (n : Nat) (s : State) : (wait n s).timer = 0 := rfl
@[simp] theorem wait_seq (n : Nat) (s : State) : (wait n s).seq = s.seq := rfl
@[simp] theorem wait_latch (n : Nat) (s : State) : (wait n s).latch = s.latch := rfl
@[simp] theorem wait_regDepth (n : Nat) (s : State) : (wait n s).regDepth = s.regDepth := rfl
@[simp] theorem wait_line (n : Nat) (s : State) : (wait n s).line = s.line := rfl
@[simp] theorem wait_samples (n : Nat) (s : State) : (wait n s).samples = s.samples := rfl
@[simp] theorem wait_trace (n : Nat) (s : State) : (wait n s).trace = .W n :: s.trace := rfl
@[simp] theorem wait_inputs (n : Nat) (s : State) : (wait n s).inputs = s.inputs := rfl
@[simp] theorem wait_hostData (n : Nat) (s : State) : (wait n s).hostData = s.hostData := rfl
@[simp] theorem wait_freeReads (n : Nat) (s : State) : (wait n s).freeReads = s.freeReads := rfl

@[simp] theorem sample_registry (s : State) : (sample s).registry = s.registry := rfl
@[simp] theorem sample_dqOe (s : State) : (sample s).dqOe = s.dqOe := rfl
@[simp] theorem sample_data (s : State) : (sample s).data = s.data := rfl
@[simp] theorem sample_crcAcc (s : State) : (sample s).crcAcc = s.crcAcc := rfl
@[simp] theorem sample_crcValid (s : State) : (sample s).crcValid = s.crcValid := rfl
@[simp] theorem sample_err (s : State) : (sample s).err = s.err := rfl
@[simp] theorem sample_busy (s : State) : (sample s).busy = s.busy := rfl
@[simp] theorem sample_ovr (s : State) : (sample s).ovr = s.ovr := rfl
@[simp] theorem sample_regIndex (s : State) : (sample s).regIndex = s.regIndex := rfl
@[simp] theorem sample_rom (s : State) : (sample s).rom = s.rom := rfl
@[simp] theorem sample_lastZero (s : State) : (sample s).lastZero = s.lastZero := rfl
@[simp] theorem sample_lastFork (s : State) : (sample s).lastFork = s.lastFork := rfl
@[simp] theorem sample_bitPos (s : State) : (sample s).bitPos = s.bitPos := rfl
@[simp] theorem sample_idBit (s : State) : (sample s).idBit = s.idBit := rfl
@[simp] theorem sample_cmpBit (s : State) : (sample s).cmpBit = s.cmpBit := rfl
@[simp] theorem sample_shift (s : State) : (sample s).shift = s.shift := rfl
@[simp] theorem sample_bitIdx (s : State) : (sample s).bitIdx = s.bitIdx := rfl
@[simp] theorem sample_timer (s : State) : (sample s).timer = s.timer := rfl
@[simp] theorem sample_seq (s : State) : (sample s).seq = s.seq := rfl
@[simp] theorem sample_latch (s : State) : (sample s).latch = nextLevel s := rfl
@[simp] theorem sample_regDepth (s : State) : (sample s).regDepth = s.regDepth := rfl
@[simp] theorem sample_line (s : State) : (sample s).line = s.line.tail := rfl
@[simp] theorem sample_samples (s : State) : (sample s).samples = s.samples + 1 := rfl
@[simp] theorem sample_trace (s : State) : (sample s).trace = .S (nextLevel s) :: s.trace := rfl
@[simp] theorem sample_inputs (s : State) : (sample s).inputs = s.inputs := rfl
@[simp] theorem sample_hostData (s : State) : (sample s).hostData = s.hostData := rfl
@[simp] theorem sample_freeReads (s : State) : (sample s).freeReads = s.freeReads := rfl

@[simp] theorem loadShift_registry (v : Byte) (s : State) : (loadShift v s).registry = s.registry := rfl
@[simp] theorem loadShift_dqOe (v : Byte) (s : State) : (loadShift v s).dqOe = s.dqOe := rfl
@[simp] theorem loadShift_data (v : Byte) (s : State) : (loadShift v s).data = s.data := rfl
@[simp] theorem loadShift_crcAcc (v : Byte) (s : State) : (loadShift v s).crcAcc = s.crcAcc := rfl
@[simp] theorem loadShift_crcValid (v : Byte) (s : State) : (loadShift v s).crcValid = s.crcValid := rfl
@[simp] theorem loadShift_err (v : Byte) (s : State) : (loadShift v s).err = s.err := rfl
@[simp] theorem loadShift_busy (v : Byte) (s : State) : (loadShift v s).busy = s.busy := rfl
@[simp] theorem loadShift_ovr (v : Byte) (s : State) : (loadShift v s).ovr = s.ovr := rfl
@[simp] theorem loadShift_regIndex (v : Byte) (s : State) : (loadShift v s).regIndex = s.regIndex := rfl
@[simp] theorem loadShift_rom (v : Byte) (s : State) : (loadShift v s).rom = s.rom := rfl
@[simp] theorem loadShift_lastZero (v : Byte) (s : State) : (loadShift v s).lastZero = s.lastZero := rfl
@[simp] theorem loadShift_lastFork (v : Byte) (s : State) : (loadShift v s).lastFork = s.lastFork := rfl
@[simp] theorem loadShift_bitPos (v : Byte) (s : State) : (loadShift v s).bitPos = s.bitPos := rfl
@[simp] theorem loadShift_idBit (v : Byte) (s : State) : (loadShift v s).idBit = s.idBit := rfl
@[simp] theorem loadShift_cmpBit (v : Byte) (s : State) : (loadShift v s).cmpBit = s.cmpBit := rfl
@[simp] theorem loadShift_shift (v : Byte) (s : State) : (loadShift v s).shift = v := rfl
@[simp] theorem loadShift_bitIdx (v : Byte) (s : State) : (loadShift v s).bitIdx = 0 := rfl
@[simp] theorem loadShift_timer (v : Byte) (s : State) : (loadShift v s).timer = s.timer := rfl
@[simp] theorem loadShift_seq (v : Byte) (s : State) : (loadShift v s).seq = s.seq := rfl
@[simp] theorem loadShift_latch (v : Byte) (s : State) : (loadShift v s).latch = s.latch := rfl
@[simp] theorem loadShift_regDepth (v : Byte) (s : State) : (loadShift v s).regDepth = s.regDepth := rfl
@[simp] theorem loadShift_line (v : Byte) (s : State) : (loadShift v s).line = s.line := rfl
@[simp] theorem loadShift_samples (v : Byte) (s : State) : (loadShift v s).samples = s.samples := rfl
@[simp] theorem loadShift_trace (v : Byte) (s : State) : (loadShift v s).trace = s.trace := rfl
@[simp] theorem loadShift_inputs (v : Byte) (s : State) : (loadShift v s).inputs = s.inputs := rfl
@[simp] theorem loadShift_hostData (v : Byte) (s : State) : (loadShift v s).hostData = s.hostData := rfl
@[simp] theorem loadShift_freeReads (v : Byte) (s : State) : (loadShift v s).freeReads = s.freeReads := rfl

@[simp] theorem clearErr_registry (s : State) : (clearErr s).registry = s.registry := rfl
@[simp] theorem clearErr_dqOe (s : State) : (clearErr s).dqOe = s.dqOe := rfl
@[simp] theorem clearErr_data (s : State) : (clearErr s).data = s.data := rfl
@[simp] theorem clearErr_crcAcc (s : State) : (clearErr s).crcAcc = s.crcAcc := rfl
@[simp] theorem clearErr_crcValid (s : State) : (clearErr s).crcValid = s.crcValid := rfl
@[simp] theorem clearErr_err (s : State) : (clearErr s).err = 0 := rfl
@[simp] theorem clearErr_busy (s : State) : (clearErr s).busy = s.busy := rfl
@[simp] theorem clearErr_ovr (s : State) : (clearErr s).ovr = s.ovr := rfl
@[simp] theorem clearErr_regIndex (s : State) : (clearErr s).regIndex = s.regIndex := rfl
@[simp] theorem clearErr_rom (s : State) : (clearErr s).rom = s.rom := rfl
@[simp] theorem clearErr_lastZero (s : State) : (clearErr s).lastZero = s.lastZero := rfl
@[simp] theorem clearErr_lastFork (s : State) : (clearErr s).lastFork = s.lastFork := rfl
@[simp] theorem clearErr_bitPos (s : State) : (clearErr s).bitPos = s.bitPos := rfl
@[simp] theorem clearErr_idBit (s : State) : (clearErr s).idBit = s.idBit := rfl
@[simp] theorem clearErr_cmpBit (s : State) : (clearErr s).cmpBit = s.cmpBit := rfl
@[simp] theorem clearErr_shift (s : State) : (clearErr s).shift = s.shift := rfl
@[simp] theorem clearErr_bitIdx (s : State) : (clearErr s).bitIdx = s.bitIdx := rfl
@[simp] theorem clearErr_timer (s : State) : (clearErr s).timer = s.timer := rfl
@[simp] theorem clearErr_seq (s : State) : (clearErr s).seq = s.seq := rfl
@[simp] theorem clearErr_latch (s : State) : (clearErr s).latch = s.latch := rfl
@[simp] theorem clearErr_regDepth (s : State) : (clearErr s).regDepth = s.regDepth := rfl
@[simp] theorem clearErr_line (s : State) : (clearErr s).line = s.line := rfl
@[simp] theorem clearErr_samples (s : State) : (clearErr s).samples = s.samples := rfl
@[simp] theorem clearErr_trace (s : State) : (clearErr s).trace = s.trace := rfl
@[simp] theorem clearErr_inputs (s : State) : (clearErr s).inputs = s.inputs := rfl
@[simp] theorem clearErr_hostData (s : State) : (clearErr s).hostData = s.hostData := rfl
@[simp] theorem clearErr_freeReads (s : State) : (clearErr s).freeReads = s.freeReads := rfl

@[simp] theorem accept_registry (i : Instr) (s : State) : (accept i s).registry = s.registry := rfl
@[simp] theorem accept_dqOe (i : Instr) (s : State) : (accept i s).dqOe = s.dqOe := rfl
@[simp] theorem accept_data (i : Instr) (s : State) : (accept i s).data = s.data := rfl
@[simp] theorem accept_crcAcc (i : Instr) (s : State) : (accept i s).crcAcc = s.crcAcc := rfl
@[simp] theorem accept_crcValid (i : Instr) (s : State) : (accept i s).crcValid = s.crcValid := rfl
@[simp] theorem accept_err (i : Instr) (s : State) : (accept i s).err = 0 := rfl
@[simp] theorem accept_busy (i : Instr) (s : State) : (accept i s).busy = true := rfl
@[simp] theorem accept_ovr (i : Instr) (s : State) : (accept i s).ovr = s.ovr := rfl
@[simp] theorem accept_regIndex (i : Instr) (s : State) : (accept i s).regIndex = s.regIndex := rfl
@[simp] theorem accept_rom (i : Instr) (s : State) : (accept i s).rom = s.rom := rfl
@[simp] theorem accept_lastZero (i : Instr) (s : State) : (accept i s).lastZero = s.lastZero := rfl
@[simp] theorem accept_lastFork (i : Instr) (s : State) : (accept i s).lastFork = s.lastFork := rfl
@[simp] theorem accept_bitPos (i : Instr) (s : State) : (accept i s).bitPos = s.bitPos := rfl
@[simp] theorem accept_idBit (i : Instr) (s : State) : (accept i s).idBit = s.idBit := rfl
@[simp] theorem accept_cmpBit (i : Instr) (s : State) : (accept i s).cmpBit = s.cmpBit := rfl
@[simp] theorem accept_shift (i : Instr) (s : State) : (accept i s).shift = s.shift := rfl
@[simp] theorem accept_bitIdx (i : Instr) (s : State) : (accept i s).bitIdx = s.bitIdx := rfl
@[simp] theorem accept_timer (i : Instr) (s : State) : (accept i s).timer = 0 := rfl
@[simp] theorem accept_seq (i : Instr) (s : State) : (accept i s).seq = ⟨some i, firstPhase i, 0⟩ := rfl
@[simp] theorem accept_latch (i : Instr) (s : State) : (accept i s).latch = s.latch := rfl
@[simp] theorem accept_regDepth (i : Instr) (s : State) : (accept i s).regDepth = s.regDepth := rfl
@[simp] theorem accept_line (i : Instr) (s : State) : (accept i s).line = s.line := rfl
@[simp] theorem accept_samples (i : Instr) (s : State) : (accept i s).samples = s.samples := rfl
@[simp] theorem accept_trace (i : Instr) (s : State) : (accept i s).trace = s.trace := rfl
@[simp] theorem accept_inputs (i : Instr) (s : State) : (accept i s).inputs = s.inputs := rfl
@[simp] theorem accept_hostData (i : Instr) (s : State) : (accept i s).hostData = s.hostData := rfl
@[simp] theorem accept_freeReads (i : Instr) (s : State) : (accept i s).freeReads = s.freeReads := rfl

@[simp] theorem finish_registry (s : State) : (finish s).registry = s.registry := rfl
@[simp] theorem finish_dqOe (s : State) : (finish s).dqOe = s.dqOe := rfl
@[simp] theorem finish_data (s : State) : (finish s).data = s.data := rfl
@[simp] theorem finish_crcAcc (s : State) : (finish s).crcAcc = s.crcAcc := rfl
@[simp] theorem finish_crcValid (s : State) : (finish s).crcValid = s.crcValid := rfl
@[simp] theorem finish_err (s : State) : (finish s).err = s.err := rfl
@[simp] theorem finish_busy (s : State) : (finish s).busy = false := rfl
@[simp] theorem finish_ovr (s : State) : (finish s).ovr = s.ovr := rfl
@[simp] theorem finish_regIndex (s : State) : (finish s).regIndex = s.regIndex := rfl
@[simp] theorem finish_rom (s : State) : (finish s).rom = s.rom := rfl
@[simp] theorem finish_lastZero (s : State) : (finish s).lastZero = s.lastZero := rfl
@[simp] theorem finish_lastFork (s : State) : (finish s).lastFork = s.lastFork := rfl
@[simp] theorem finish_bitPos (s : State) : (finish s).bitPos = s.bitPos := rfl
@[simp] theorem finish_idBit (s : State) : (finish s).idBit = s.idBit := rfl
@[simp] theorem finish_cmpBit (s : State) : (finish s).cmpBit = s.cmpBit := rfl
@[simp] theorem finish_shift (s : State) : (finish s).shift = s.shift := rfl
@[simp] theorem finish_bitIdx (s : State) : (finish s).bitIdx = s.bitIdx := rfl
@[simp] theorem finish_timer (s : State) : (finish s).timer = s.timer := rfl
@[simp] theorem finish_seq (s : State) : (finish s).seq = Seq.idle := rfl
@[simp] theorem finish_latch (s : State) : (finish s).latch = s.latch := rfl
@[simp] theorem finish_regDepth (s : State) : (finish s).regDepth = s.regDepth := rfl
@[simp] theorem finish_line (s : State) : (finish s).line = s.line := rfl
@[simp] theorem finish_samples (s : State) : (finish s).samples = s.samples := rfl
@[simp] theorem finish_trace (s : State) : (finish s).trace = s.trace := rfl
@[simp] theorem finish_inputs (s : State) : (finish s).inputs = s.inputs := rfl
@[simp] theorem finish_hostData (s : State) : (finish s).hostData = s.hostData := rfl
@[simp] theorem finish_freeReads (s : State) : (finish s).freeReads = s.freeReads := rfl

@[simp] theorem raise_registry (e : ErrorKind) (s : State) : (raise e s).registry = s.registry := rfl
@[simp] theorem raise_dqOe (e : ErrorKind) (s : State) : (raise e s).dqOe = s.dqOe := rfl
@[simp] theorem raise_data (e : ErrorKind) (s : State) : (raise e s).data = s.data := rfl
@[simp] theorem raise_crcAcc (e : ErrorKind) (s : State) : (raise e s).crcAcc = s.crcAcc := rfl
@[simp] theorem raise_crcValid (e : ErrorKind) (s : State) : (raise e s).crcValid = s.crcValid := rfl
@[simp] theorem raise_err (e : ErrorKind) (s : State) : (raise e s).err = e.code := rfl
@[simp] theorem raise_busy (e : ErrorKind) (s : State) : (raise e s).busy = false := rfl
@[simp] theorem raise_ovr (e : ErrorKind) (s : State) : (raise e s).ovr = s.ovr := rfl
@[simp] theorem raise_regIndex (e : ErrorKind) (s : State) : (raise e s).regIndex = s.regIndex := rfl
@[simp] theorem raise_rom (e : ErrorKind) (s : State) : (raise e s).rom = s.rom := rfl
@[simp] theorem raise_lastZero (e : ErrorKind) (s : State) : (raise e s).lastZero = s.lastZero := rfl
@[simp] theorem raise_lastFork (e : ErrorKind) (s : State) : (raise e s).lastFork = s.lastFork := rfl
@[simp] theorem raise_bitPos (e : ErrorKind) (s : State) : (raise e s).bitPos = s.bitPos := rfl
@[simp] theorem raise_idBit (e : ErrorKind) (s : State) : (raise e s).idBit = s.idBit := rfl
@[simp] theorem raise_cmpBit (e : ErrorKind) (s : State) : (raise e s).cmpBit = s.cmpBit := rfl
@[simp] theorem raise_shift (e : ErrorKind) (s : State) : (raise e s).shift = s.shift := rfl
@[simp] theorem raise_bitIdx (e : ErrorKind) (s : State) : (raise e s).bitIdx = s.bitIdx := rfl
@[simp] theorem raise_timer (e : ErrorKind) (s : State) : (raise e s).timer = s.timer := rfl
@[simp] theorem raise_seq (e : ErrorKind) (s : State) : (raise e s).seq = Seq.idle := rfl
@[simp] theorem raise_latch (e : ErrorKind) (s : State) : (raise e s).latch = s.latch := rfl
@[simp] theorem raise_regDepth (e : ErrorKind) (s : State) : (raise e s).regDepth = s.regDepth := rfl
@[simp] theorem raise_line (e : ErrorKind) (s : State) : (raise e s).line = s.line := rfl
@[simp] theorem raise_samples (e : ErrorKind) (s : State) : (raise e s).samples = s.samples := rfl
@[simp] theorem raise_trace (e : ErrorKind) (s : State) : (raise e s).trace = s.trace := rfl
@[simp] theorem raise_inputs (e : ErrorKind) (s : State) : (raise e s).inputs = s.inputs := rfl
@[simp] theorem raise_hostData (e : ErrorKind) (s : State) : (raise e s).hostData = s.hostData := rfl
@[simp] theorem raise_freeReads (e : ErrorKind) (s : State) : (raise e s).freeReads = s.freeReads := rfl

@[simp] theorem afterBus_registry (n : Nat) (sl : List Slot) (s : State) : (afterBus n sl s).registry = s.registry := rfl
@[simp] theorem afterBus_dqOe (n : Nat) (sl : List Slot) (s : State) : (afterBus n sl s).dqOe = false := rfl
@[simp] theorem afterBus_data (n : Nat) (sl : List Slot) (s : State) : (afterBus n sl s).data = s.data := rfl
@[simp] theorem afterBus_crcAcc (n : Nat) (sl : List Slot) (s : State) : (afterBus n sl s).crcAcc = s.crcAcc := rfl
@[simp] theorem afterBus_crcValid (n : Nat) (sl : List Slot) (s : State) : (afterBus n sl s).crcValid = s.crcValid := rfl
@[simp] theorem afterBus_err (n : Nat) (sl : List Slot) (s : State) : (afterBus n sl s).err = s.err := rfl
@[simp] theorem afterBus_busy (n : Nat) (sl : List Slot) (s : State) : (afterBus n sl s).busy = s.busy := rfl
@[simp] theorem afterBus_ovr (n : Nat) (sl : List Slot) (s : State) : (afterBus n sl s).ovr = s.ovr := rfl
@[simp] theorem afterBus_regIndex (n : Nat) (sl : List Slot) (s : State) : (afterBus n sl s).regIndex = s.regIndex := rfl
@[simp] theorem afterBus_rom (n : Nat) (sl : List Slot) (s : State) : (afterBus n sl s).rom = s.rom := rfl
@[simp] theorem afterBus_lastZero (n : Nat) (sl : List Slot) (s : State) : (afterBus n sl s).lastZero = s.lastZero := rfl
@[simp] theorem afterBus_lastFork (n : Nat) (sl : List Slot) (s : State) : (afterBus n sl s).lastFork = s.lastFork := rfl
@[simp] theorem afterBus_bitPos (n : Nat) (sl : List Slot) (s : State) : (afterBus n sl s).bitPos = s.bitPos := rfl
@[simp] theorem afterBus_idBit (n : Nat) (sl : List Slot) (s : State) : (afterBus n sl s).idBit = s.idBit := rfl
@[simp] theorem afterBus_cmpBit (n : Nat) (sl : List Slot) (s : State) : (afterBus n sl s).cmpBit = s.cmpBit := rfl
@[simp] theorem afterBus_shift (n : Nat) (sl : List Slot) (s : State) : (afterBus n sl s).shift = s.shift := rfl
@[simp] theorem afterBus_bitIdx (n : Nat) (sl : List Slot) (s : State) : (afterBus n sl s).bitIdx = s.bitIdx := rfl
@[simp] theorem afterBus_timer (n : Nat) (sl : List Slot) (s : State) : (afterBus n sl s).timer = s.timer := rfl
@[simp] theorem afterBus_seq (n : Nat) (sl : List Slot) (s : State) : (afterBus n sl s).seq = s.seq := rfl
@[simp] theorem afterBus_latch (n : Nat) (sl : List Slot) (s : State) : (afterBus n sl s).latch = s.latch := rfl
@[simp] theorem afterBus_regDepth (n : Nat) (sl : List Slot) (s : State) : (afterBus n sl s).regDepth = s.regDepth := rfl
@[simp] theorem afterBus_line (n : Nat) (sl : List Slot) (s : State) : (afterBus n sl s).line = s.line.drop n := rfl
@[simp] theorem afterBus_samples (n : Nat) (sl : List Slot) (s : State) : (afterBus n sl s).samples = s.samples + n := rfl
@[simp] theorem afterBus_trace (n : Nat) (sl : List Slot) (s : State) : (afterBus n sl s).trace = afterSlots sl s.trace := rfl
@[simp] theorem afterBus_inputs (n : Nat) (sl : List Slot) (s : State) : (afterBus n sl s).inputs = s.inputs := rfl
@[simp] theorem afterBus_hostData (n : Nat) (sl : List Slot) (s : State) : (afterBus n sl s).hostData = s.hostData := rfl
@[simp] theorem afterBus_freeReads (n : Nat) (sl : List Slot) (s : State) : (afterBus n sl s).freeReads = s.freeReads := rfl

@[simp] theorem forgetLocal_registry (s : State) : (forgetLocal s).registry = s.registry := rfl
@[simp] theorem forgetLocal_dqOe (s : State) : (forgetLocal s).dqOe = s.dqOe := rfl
@[simp] theorem forgetLocal_data (s : State) : (forgetLocal s).data = s.data := rfl
@[simp] theorem forgetLocal_crcAcc (s : State) : (forgetLocal s).crcAcc = s.crcAcc := rfl
@[simp] theorem forgetLocal_crcValid (s : State) : (forgetLocal s).crcValid = s.crcValid := rfl
@[simp] theorem forgetLocal_err (s : State) : (forgetLocal s).err = s.err := rfl
@[simp] theorem forgetLocal_busy (s : State) : (forgetLocal s).busy = s.busy := rfl
@[simp] theorem forgetLocal_ovr (s : State) : (forgetLocal s).ovr = s.ovr := rfl
@[simp] theorem forgetLocal_regIndex (s : State) : (forgetLocal s).regIndex = s.regIndex := rfl
@[simp] theorem forgetLocal_rom (s : State) : (forgetLocal s).rom = 0 := rfl
@[simp] theorem forgetLocal_lastZero (s : State) : (forgetLocal s).lastZero = 0 := rfl
@[simp] theorem forgetLocal_lastFork (s : State) : (forgetLocal s).lastFork = 0 := rfl
@[simp] theorem forgetLocal_bitPos (s : State) : (forgetLocal s).bitPos = 0 := rfl
@[simp] theorem forgetLocal_idBit (s : State) : (forgetLocal s).idBit = false := rfl
@[simp] theorem forgetLocal_cmpBit (s : State) : (forgetLocal s).cmpBit = false := rfl
@[simp] theorem forgetLocal_shift (s : State) : (forgetLocal s).shift = 0 := rfl
@[simp] theorem forgetLocal_bitIdx (s : State) : (forgetLocal s).bitIdx = 0 := rfl
@[simp] theorem forgetLocal_timer (s : State) : (forgetLocal s).timer = 0 := rfl
@[simp] theorem forgetLocal_seq (s : State) : (forgetLocal s).seq = s.seq := rfl
@[simp] theorem forgetLocal_latch (s : State) : (forgetLocal s).latch = false := rfl
@[simp] theorem forgetLocal_regDepth (s : State) : (forgetLocal s).regDepth = s.regDepth := rfl
@[simp] theorem forgetLocal_line (s : State) : (forgetLocal s).line = s.line := rfl
@[simp] theorem forgetLocal_samples (s : State) : (forgetLocal s).samples = s.samples := rfl
@[simp] theorem forgetLocal_trace (s : State) : (forgetLocal s).trace = s.trace := rfl
@[simp] theorem forgetLocal_inputs (s : State) : (forgetLocal s).inputs = s.inputs := rfl
@[simp] theorem forgetLocal_hostData (s : State) : (forgetLocal s).hostData = s.hostData := rfl
@[simp] theorem forgetLocal_freeReads (s : State) : (forgetLocal s).freeReads = s.freeReads := rfl

end Sys2Proof.Machine
end

