-- ==== Sys2Proof/Laws/HostPort.lean ====
section
/-! SUPPORT. What the host port and a step can do, said once: every meaning answers a next state, and the
cases of command issue, of a host access, of a small step and of a step. -/

namespace Sys2Proof.Machine

/-- No meaning stops. -/
theorem exec_isNext (i : Instr) (s : State) : ∃ t, exec i s = .next t := by
  cases i <;> exact ⟨_, rfl⟩

/-- R64, R65, R243: dropped, illegal, or executed. -/
theorem issue_cases (v : HostWord) (s : State) :
    (s.busy = true ∧ issue v s = .next (dropCommand s)) ∨
    (s.busy = false ∧ (∃ e, decode (v.setWidth 16) = .error e) ∧ issue v s = .next (illegalWord s)) ∨
    (s.busy = false ∧ ∃ i, decode (v.setWidth 16) = .ok i ∧ issue v s = exec i s) := by
  unfold issue
  cases hb : s.busy with
  | true => exact .inl ⟨rfl, by simp⟩
  | false =>
    cases hd : decode (v.setWidth 16) with
    | error e => exact .inr (.inl ⟨rfl, ⟨e, rfl⟩, by simp⟩)
    | ok i => exact .inr (.inr ⟨rfl, i, rfl, by simp⟩)

theorem issue_isNext (v : HostWord) (s : State) : ∃ t, issue v s = .next t := by
  rcases issue_cases v s with ⟨_, h⟩ | ⟨_, _, h⟩ | ⟨_, i, _, h⟩
  · exact ⟨_, h⟩
  · exact ⟨_, h⟩
  · obtain ⟨t, ht⟩ := exec_isNext i s
    exact ⟨t, h.trans ht⟩

/-- The same for a host that goes on at once. -/
theorem postCommand_cases (v : HostWord) (s : State) :
    (s.busy = true ∧ postCommand v s = .next (dropCommand s)) ∨
    (s.busy = false ∧ (∃ e, decode (v.setWidth 16) = .error e) ∧ postCommand v s = .next (illegalWord s)) ∨
    (s.busy = false ∧ ∃ i, decode (v.setWidth 16) = .ok i ∧
      ((zeroTime i s = true ∧ postCommand v s = exec i s) ∨
       (zeroTime i s = false ∧ postCommand v s = .next (beginCommand i s)))) := by
  unfold postCommand
  cases hb : s.busy with
  | true => exact .inl ⟨rfl, by simp⟩
  | false =>
    cases hd : decode (v.setWidth 16) with
    | error e => exact .inr (.inl ⟨rfl, ⟨e, rfl⟩, by simp⟩)
    | ok i =>
      cases hz : zeroTime i s with
      | true => exact .inr (.inr ⟨rfl, i, rfl, .inl ⟨hz, by simp [hz]⟩⟩)
      | false => exact .inr (.inr ⟨rfl, i, rfl, .inr ⟨hz, by simp [hz]⟩⟩)

/-- A read that answers leaves the core as it was (R62). -/
theorem hostRead_next {addr n : Nat} {s t : State} (h : hostRead addr n s = .next t) :
    ∃ r, hostRegAt addr = some r ∧ t = { s with hostData := readReg r s, freeReads := s.freeReads + 1 } := by
  unfold hostRead at h
  split at h
  · split at h
    · rename_i r hr
      cases h
      exact ⟨r, hr, rfl⟩
    · cases h
  · cases h

/-- A write that answers is a command issue, a clear of `OVR`, a new `REG_INDEX`, or nothing (R63). -/
theorem hostWrite_next {addr n : Nat} {v : HostWord} {s t : State} (h : hostWrite addr n v s = .next t) :
    (addr = 0x00 ∧ n = 4 ∧ issue v s = .next t) ∨ (addr = 0x04 ∧ n = 4 ∧ t = writeStatus v s) ∨
    (addr = 0x14 ∧ n = 4 ∧ t = writeRegIndex v s) ∨ t = s := by
  unfold hostWrite at h
  split at h
  · rename_i ha
    have hn : n = 4 := by
      simp only [alignedWord, Bool.and_eq_true, beq_iff_eq] at ha
      exact ha.2
    split at h
    · rename_i r hr
      unfold hostRegAt at hr
      split at hr <;> cases hr <;> simp only [writeReg] at h
      · exact .inl ⟨rfl, hn, h⟩
      · cases h; exact .inr (.inl ⟨rfl, hn, rfl⟩)
      · cases h; exact .inr (.inr (.inr rfl))
      · cases h; exact .inr (.inr (.inr rfl))
      · cases h; exact .inr (.inr (.inr rfl))
      · cases h; exact .inr (.inr (.inl ⟨rfl, hn, rfl⟩))
      · cases h; exact .inr (.inr (.inr rfl))
      · cases h; exact .inr (.inr (.inr rfl))
    · cases h
  · cases h

/-- A small step that answers: idle time, the first or another tick of a `Wait`, or a primitive that is
over (R41). -/
theorem seqTick_next {s t : State} (h : seqTick s = .next t) :
    (s.seq.op = none ∧ t = s) ∨
    (∃ n, (seqPrims s)[s.seq.slot]? = some (.wait n) ∧
      ((s.timer = 0 ∧ t = { s with timer := n }) ∨ (s.timer = 1 ∧ t = afterPrim (wait n s)) ∨
       (1 < s.timer ∧ t = { s with timer := s.timer - 1 }))) ∨
    ((seqPrims s)[s.seq.slot]? = some .driveLow ∧ t = afterPrim (driveLow s)) ∨
    ((seqPrims s)[s.seq.slot]? = some .release ∧ t = afterPrim (release s)) ∨
    ((seqPrims s)[s.seq.slot]? = some .sample ∧ s.dqOe = false ∧ t = afterPrim (sample s)) := by
  unfold seqTick at h
  split at h
  · rename_i ho
    cases h
    exact .inl ⟨by simpa using ho, rfl⟩
  · split at h
    · cases h
    · rename_i n hn
      refine .inr (.inl ⟨n, hn, ?_⟩)
      split at h
      · rename_i h0
        cases h
        exact .inl ⟨h0, rfl⟩
      · split at h
        · rename_i h1
          cases h
          exact .inr (.inl ⟨h1, rfl⟩)
        · cases h
          exact .inr (.inr ⟨by omega, rfl⟩)
    · rename_i hp
      cases h
      exact .inr (.inr (.inl ⟨hp, rfl⟩))
    · rename_i hp
      cases h
      exact .inr (.inr (.inr (.inl ⟨hp, rfl⟩)))
    · rename_i hp
      split at h
      · cases h
      · rename_i hd
        cases h
        exact .inr (.inr (.inr (.inr ⟨hp, by simpa using hd, rfl⟩)))

/-- What every small step keeps, every number of small steps keeps. -/
theorem seqRun_keeps {P : State → Prop} (hstep : ∀ s t, P s → seqTick s = .next t → P t) :
    ∀ (n : Nat) (s t : State), P s → seqRun n s = .next t → P t
  | 0, s, t, hs, h => by cases h; exact hs
  | n + 1, s, t, hs, h => by
    unfold seqRun at h
    split at h
    · rename_i u hu
      exact seqRun_keeps hstep n u t (hstep s u hs hu) h
    · cases h
    · cases h

theorem step_noInput {s : State} (h : s.inputs = []) : step s = seqTick s := by
  simp [step, h]

theorem step_input {s : State} {x : HostInput} {rest : List HostInput} (h : s.inputs = x :: rest) :
    step s = hostInput x (takeInput rest s) := by
  simp [step, h]

end Sys2Proof.Machine
end

