-- ==== Sys2Proof/Laws/Listing.lean ====
section
/-! SUPPORT. Host listings: what one issued word, one line and one call do, said once. -/

namespace Sys2Proof.Machine

/-- A word that decodes, written to `CMD` of a core that is not busy, leaves what its command leaves. -/
theorem issued_eq {w : CommandWord} {i : Instr} {s t : State} (hb : s.busy = false) (hd : decode w = .ok i)
    (he : exec i s = .next t) : issued w s = t := by
  have hw : (w.setWidth 32 : HostWord).setWidth 16 = w := by
    rw [BitVec.setWidth_setWidth_of_le w (by decide), BitVec.setWidth_eq]
  unfold issued issue
  rw [hw, hd]
  simp [hb, he]

@[simp] theorem runListing_nil (s : State) : runListing [] s = s := rfl

@[simp] theorem runListing_command (i : Instr) (rest : List Line) (s : State) :
    runListing (.command i :: rest) s = runListing rest (issued (encode i) s) := rfl

@[simp] theorem runListing_word (v : CommandWord) (rest : List Line) (s : State) :
    runListing (.word v :: rest) s = runListing rest (issued v s) := rfl

/-- `IF_ERR STOP` after a command that succeeded. -/
theorem runListing_ifErrStop_ok (rest : List Line) {s : State} (h : s.err = 0) :
    runListing (.ifErrStop :: rest) s = runListing rest s := by
  simp [runListing, h]

/-- `IF_ERR STOP` after a command that failed: nothing further is issued. -/
theorem runListing_ifErrStop_error (rest : List Line) {s : State} (h : s.err ≠ 0) :
    runListing (.ifErrStop :: rest) s = s :=
  if_neg h

theorem resultOf_ok {s : State} (h : s.err = 0) : resultOf s = .ok () := by
  simp [resultOf, h]

theorem resultOf_error {s : State} (h : s.err ≠ 0) : resultOf s = .error s.err :=
  if_neg h

@[simp] theorem runCall_fst (listing : List Line) (s : State) :
    (runCall listing s).1 = resultOf (runListing listing s) := rfl

@[simp] theorem runCall_snd (listing : List Line) (s : State) :
    (runCall listing s).2 = runListing listing s := rfl

/-- Inside R228's range SetResolution is its listing. -/
theorem setResolution_inside (index : Byte) {bits : Nat} (h : 9 ≤ bits ∧ bits ≤ 12) (s : State) :
    setResolution index bits s = runCall (Pseudo.setResolution index bits).expand s := by
  have : ¬ (bits < 9 ∨ 12 < bits) := by omega
  simp [setResolution, this]

end Sys2Proof.Machine
end

