-- ==== Sys2Proof/Laws/Operands.lean ====
section
/-! SUPPORT. Small lemmas about bits, bytes and the registry index. -/

namespace Sys2Proof.Machine

theorem bitAt_setBit (a : Address) (p q : Nat) (b : Bool) (hp : p < 64) :
    bitAt (setBit a p b) q = if q = p then b else bitAt a q := by
  unfold bitAt setBit
  by_cases hq : q < 64
  · by_cases e : q = p
    · subst e; cases b <;> simp [hq]
    · have : ¬(p ≤ q ∧ q - p = 0) := by omega
      cases b <;> simp [hq, e] <;> omega
  · have : q ≠ p := by omega
    cases b <;> simp [this, BitVec.getLsbD_of_ge, show 64 ≤ q by omega]

theorem bitAt_ext {a b : Address} (h : ∀ p < 64, bitAt a p = bitAt b p) : a = b :=
  BitVec.eq_of_getLsbD_eq h

@[simp] theorem bitAt_setBit_self (a : Address) (p : Nat) (b : Bool) (hp : p < 64) :
    bitAt (setBit a p b) p = b := by simp [bitAt_setBit a p p b hp]

theorem bitAt_setBit_ne (a : Address) (p q : Nat) (b : Bool) (hp : p < 64) (h : q ≠ p) :
    bitAt (setBit a p b) q = bitAt a q := by simp [bitAt_setBit a p q b hp, h]

theorem bitAt_of_ge (a : Address) (p : Nat) (h : 64 ≤ p) : bitAt a p = false :=
  BitVec.getLsbD_of_ge a p h

theorem lookup_isSome_iff (index : Byte) (s : State) :
    (lookup index s).isSome = true ↔ index.toNat < regCount s := by
  simp [lookup, regCount]

theorem lookup_eq_none_iff (index : Byte) (s : State) :
    lookup index s = none ↔ regCount s ≤ index.toNat := by
  simp [lookup, regCount]

theorem lookup_eq_some_iff (index : Byte) (s : State) (a : Address) :
    lookup index s = some a ↔ s.registry[index.toNat]? = some a := Iff.rfl

end Sys2Proof.Machine
end

