-- ==== Sys2Proof/Laws/Ops.lean ====
section
/-! SUPPORT. What each shared operation does, said once: slots, bytes, the pulse, the ends of a
command, the oracle's answers, the trace. Proofs cite these and do not unfold the operations. -/

namespace Sys2Proof.Machine

/-! The oracle. -/

theorem nextLevel_eq_level (s : State) : nextLevel s = level s 0 := by
  unfold nextLevel level
  cases s.line <;> simp

theorem level_of_line_eq {s t : State} (hl : t.line = s.line) (hn : t.samples = s.samples) (k : Nat) :
    level t k = level s k := by
  simp [level, hl, hn]

theorem level_after (n : Nat) {s t : State} (hl : t.line = s.line.drop n)
    (hn : t.samples = s.samples + n) (k : Nat) : level t k = level s (n + k) := by
  simp [level, hl, hn, List.getElem?_drop, Nat.add_assoc]

@[simp] theorem level_afterBus (n : Nat) (sl : List Slot) (s : State) (k : Nat) :
    level (afterBus n sl s) k = level s (n + k) := level_after n rfl rfl k

/-- An answer the state's own list holds. -/
theorem level_of_line (s : State) (k : Nat) (b : Bool) (h : s.line[k]? = some b) : level s k = b := by
  simp [level, h]

/-! The trace. -/

theorem slotsEvents_append (x y : List Slot) : slotsEvents (x ++ y) = slotsEvents x ++ slotsEvents y := by
  simp [slotsEvents]

@[simp] theorem afterSlots_nil (tr : List PinEvent) : afterSlots [] tr = tr := rfl

theorem afterSlots_append (x y : List Slot) (tr : List PinEvent) :
    afterSlots (x ++ y) tr = afterSlots y (afterSlots x tr) := by
  simp [afterSlots, slotsEvents_append, List.append_assoc]

theorem afterSlots_cons (x : Slot) (y : List Slot) (tr : List PinEvent) :
    afterSlots (x :: y) tr = afterSlots y (afterSlots [x] tr) := afterSlots_append [x] y tr

theorem traceDuration_append (x y : List PinEvent) :
    traceDuration (x ++ y) = traceDuration x + traceDuration y := by
  simp [traceDuration]

theorem traceDuration_reverse (x : List PinEvent) : traceDuration x.reverse = traceDuration x := by
  simp [traceDuration, List.sum_reverse]

/-- Microseconds of a slot (R111). -/
theorem traceDuration_slotEvents (x : Slot) : traceDuration (slotEvents x) =
    match x with
    | .rst _ => 960
    | .w _ => 65
    | .r _ => 71 := by
  match x with
  | .rst _ => simp [slotEvents, traceDuration, eventDuration]
  | .w true => simp [slotEvents, traceDuration, eventDuration]
  | .w false => simp [slotEvents, traceDuration, eventDuration]
  | .r _ => simp [slotEvents, traceDuration, eventDuration]

theorem traceDuration_afterSlots (sl : List Slot) (tr : List PinEvent) :
    traceDuration (afterSlots sl tr) = (sl.map fun x => traceDuration (slotEvents x)).sum + traceDuration tr := by
  induction sl generalizing tr with
  | nil => simp
  | cons x y ih =>
    rw [afterSlots_cons, ih]
    simp only [afterSlots, slotsEvents, List.flatMap_cons, List.flatMap_nil, List.append_nil,
      traceDuration_append, traceDuration_reverse, List.map_cons, List.sum_cons]
    omega

theorem afterBus_afterBus (m n : Nat) (x y : List Slot) (s : State) :
    afterBus n y (afterBus m x s) = afterBus (m + n) (x ++ y) s := by
  simp [afterBus, afterSlots_append, List.drop_drop, Nat.add_assoc]

/-! Slots. -/

/-- `WriteSlot(b)` (R144 to R146): one write slot on the trace, no sample. -/
theorem writeSlot_eq (b : Bool) (s : State) :
    writeSlot b s = { afterBus 0 [.w b] s with timer := 0 } := by
  cases b <;> rfl

/-- `ReadSlot()` (R148): one read slot on the trace, one sample, the bit in `latch`. -/
theorem readSlot_eq (s : State) :
    readSlot s = { afterBus 1 [.r (level s 0)] s with timer := 0, latch := level s 0 } := by
  have h : nextLevel s = level s 0 := nextLevel_eq_level s
  simp only [readSlot, runPrims, readPrims, List.foldl_cons, List.foldl_nil, Prim.apply, wait, sample, release,
    driveLow, afterBus, afterSlots, slotsEvents, List.flatMap_cons, List.flatMap_nil, slotEvents, ← h]
  simp [nextLevel]

/-- `ResetPulse()` (R141): the whole pulse on the trace, one sample, the bit in `latch`. -/
theorem resetPulse_eq (s : State) :
    resetPulse s = { afterBus 1 [.rst (level s 0)] s with timer := 0, latch := level s 0 } := by
  have h : nextLevel s = level s 0 := nextLevel_eq_level s
  simp only [resetPulse, runPrims, resetPrims, List.foldl_cons, List.foldl_nil, Prim.apply, wait, sample, release,
    driveLow, afterBus, afterSlots, slotsEvents, List.flatMap_cons, List.flatMap_nil, slotEvents, ← h]
  simp [nextLevel]

/-- A reset pulse that must find somebody answers in one of two ways (R142, R173). -/
theorem resetOrRaise_eq (s : State) :
    resetOrRaise s = if level s 0 then .raised .noPresence (resetPulse s) else .running (resetPulse s) := by
  simp [resetOrRaise, resetPulse_eq]

/-! Bytes. -/

/-- The slots of the low `n` bits of a byte, bit 0 first. -/
theorem lowBitSlots_succ (n : Nat) (v : Byte) :
    ((List.range (n + 1)).map fun k => Slot.w (v.getLsbD k)) =
      .w (v.getLsbD 0) :: (List.range n).map fun k => .w ((v >>> 1).getLsbD k) := by
  simp [List.range_succ_eq_map, Function.comp_def, BitVec.getLsbD_ushiftRight, Nat.add_comm]

/-- What the next `n` bits of a byte write do (R161). -/
theorem writeBits_eq (n : Nat) (s : State) (ht : s.timer = 0) (hd : s.dqOe = false) :
    writeBits n s = { afterBus 0 ((List.range n).map fun k => .w (s.shift.getLsbD k)) s with
      shift := s.shift >>> n, bitIdx := s.bitIdx + n } := by
  induction n generalizing s with
  | zero => ext1 <;> simp [writeBits, hd]
  | succ n ih =>
    rw [writeBits, ih _ (by simp [shiftOut, writeSlot_eq]) (by simp [shiftOut, writeSlot_eq]),
      lowBitSlots_succ]
    ext1
    case trace => simp [shiftOut, writeSlot_eq, ← afterSlots_cons]
    case shift => simp [shiftOut, writeSlot_eq, BitVec.shiftRight_add, Nat.add_comm n 1]
    all_goals simp [shiftOut, writeSlot_eq, ht, Nat.add_comm, Nat.add_left_comm]

/-- `WriteByte(v)` (R161): eight write slots, bit 0 first, no sample. -/
theorem writeByte_eq (v : Byte) (s : State) :
    writeByte v s = { afterBus 0 (byteSlots v) s with timer := 0, shift := 0, bitIdx := 8 } := by
  have h : v >>> 1 >>> 7 = 0 := by rw [← BitVec.shiftRight_add]; exact BitVec.ushiftRight_eq_zero (by omega)
  rw [writeByte, writeBits, writeBits_eq _ _ (by simp [shiftOut, writeSlot_eq]) (by simp [shiftOut, writeSlot_eq])]
  have h8 : byteSlots v = .w (v.getLsbD 0) :: (List.range 7).map fun k => .w ((v >>> 1).getLsbD k) :=
    lowBitSlots_succ 7 v
  ext1
  case trace => simp [h8, shiftOut, writeSlot_eq, ← afterSlots_cons]
  case shift => simp [shiftOut, writeSlot_eq, h]
  all_goals simp [shiftOut, writeSlot_eq]

/-- The `n` read slots that carry the oracle's next answers. -/
def readSlotsOf (n : Nat) (s : State) : List Slot := (levels s n).map .r

theorem levels_succ (n : Nat) {s t : State} (h : ∀ k, level t k = level s (1 + k)) :
    levels s (n + 1) = level s 0 :: levels t n := by
  simp [levels, List.range_succ_eq_map, Function.comp_def, h, Nat.add_comm]

/-- The bit in `latch` after `n` samples. -/
def latchAfter (n : Nat) (s : State) : Bool := if n = 0 then s.latch else level s (n - 1)

theorem latchAfter_succ (n : Nat) {s t : State} (ht : t.latch = level s 0)
    (h : ∀ k, level t k = level s (1 + k)) : latchAfter n t = latchAfter (n + 1) s := by
  cases n <;> simp [latchAfter, ht, h, Nat.add_comm]

/-- What the next `n` bits of a byte read do (R164): `n` read slots; only `SHIFT` is left open here. -/
theorem readBits_eq (n : Nat) (s : State) (ht : s.timer = 0) (hd : s.dqOe = false) :
    readBits n s = { afterBus n (readSlotsOf n s) s with
      latch := latchAfter n s, shift := (readBits n s).shift, bitIdx := s.bitIdx + n } := by
  induction n generalizing s with
  | zero => ext1 <;> simp [readBits, hd, latchAfter, readSlotsOf, levels]
  | succ n ih =>
    have hl : ∀ k, level (shiftIn (readSlot s)) k = level s (1 + k) :=
      level_after 1 (by simp [shiftIn, readSlot_eq]) (by simp [shiftIn, readSlot_eq])
    have h := ih (shiftIn (readSlot s)) (by simp [shiftIn, readSlot_eq]) (by simp [shiftIn, readSlot_eq])
    have hs : readSlotsOf (n + 1) s = .r (level s 0) :: readSlotsOf n (shiftIn (readSlot s)) := by
      simp [readSlotsOf, levels_succ n hl]
    rw [hs, ← latchAfter_succ n (t := shiftIn (readSlot s)) (by simp [shiftIn, readSlot_eq]) hl]
    ext1
    case shift => rfl
    case trace => rw [readBits, h]; simp [shiftIn, readSlot_eq, ← afterSlots_cons]
    all_goals rw [readBits, h] <;> simp [shiftIn, readSlot_eq, ht, Nat.add_comm, Nat.add_left_comm]

/-- The bits of `SHIFT` after `n` bits of a byte read (R164). -/
theorem readBits_shift (n : Nat) (s : State) (hn : n ≤ 8) (k : Nat) (hk : k < 8) :
    (readBits n s).shift.getLsbD k =
      if k + n < 8 then s.shift.getLsbD (k + n) else level s (k + n - 8) := by
  induction n generalizing s with
  | zero => simp [readBits, hk]
  | succ n ih =>
    have hl : ∀ k, level (shiftIn (readSlot s)) k = level s (1 + k) :=
      level_after 1 (by simp [shiftIn, readSlot_eq]) (by simp [shiftIn, readSlot_eq])
    have h80 : ∀ j, j < 8 → (shiftIn (readSlot s)).shift.getLsbD j =
        if j = 7 then level s 0 else s.shift.getLsbD (j + 1) := by
      intro j hj
      have h1 : ∀ j < 8, (0x80#8).getLsbD j = decide (j = 7) := by decide
      by_cases h7 : j = 7
      · subst h7; cases hb : level s 0 <;> simp [shiftIn, readSlot_eq, hb]
      · cases hb : level s 0 <;> simp [shiftIn, readSlot_eq, hb, h1 j hj, h7, Nat.add_comm]
    rw [readBits, ih _ (by omega)]
    by_cases h1 : k + n < 8
    · rw [if_pos h1, h80 _ h1]
      by_cases h2 : k + n = 7
      · simp [h2, show ¬(k + (n + 1) < 8) by omega, show k + (n + 1) - 8 = 0 by omega]
      · simp [h2, show k + (n + 1) < 8 by omega, Nat.add_assoc]
    · rw [if_neg h1, if_neg (by omega), hl]
      congr 1; omega

/-- `ReadByte()` (R164): eight read slots; the `k`-th sample is bit `k` of `SHIFT`. -/
theorem readByte_shift (s : State) (k : Nat) (hk : k < 8) :
    (readByte s).shift.getLsbD k = level s k := by
  rw [readByte, readBits_shift 8 _ (by omega) k hk, if_neg (by omega)]
  exact level_of_line_eq rfl rfl k

/-! The 64 positions. -/

/-- What the next `n` write slots of a SELECT do (R209). -/
theorem writeAddressBits_eq (a : Address) (n : Nat) (s : State) (ht : s.timer = 0) (hd : s.dqOe = false) :
    writeAddressBits a n s =
      { afterBus 0 ((List.range n).map fun k => .w (bitAt a (s.bitPos + k))) s with
        bitPos := s.bitPos + n } := by
  induction n generalizing s with
  | zero => ext1 <;> simp [writeAddressBits, hd]
  | succ n ih =>
    rw [writeAddressBits, ih _ (by simp [nextPosition, writeSlot_eq]) (by simp [nextPosition, writeSlot_eq])]
    ext1
    case trace =>
      simp [nextPosition, writeSlot_eq, ← afterSlots_cons, List.range_succ_eq_map, Function.comp_def,
        Nat.add_assoc, Nat.add_comm 1]
    all_goals simp [nextPosition, writeSlot_eq, ht, Nat.add_comm, Nat.add_left_comm]

/-- What the next `n` read slots of a READ_ADDRESS do (R200); only `ROM` is left open here. -/
theorem readAddressBits_eq (n : Nat) (s : State) (ht : s.timer = 0) (hd : s.dqOe = false) :
    readAddressBits n s = { afterBus n (readSlotsOf n s) s with
      latch := latchAfter n s, rom := (readAddressBits n s).rom, bitPos := s.bitPos + n } := by
  induction n generalizing s with
  | zero => ext1 <;> simp [readAddressBits, hd, latchAfter, readSlotsOf, levels]
  | succ n ih =>
    have hl : ∀ k, level (storeRomBit (readSlot s)) k = level s (1 + k) :=
      level_after 1 (by simp [storeRomBit, readSlot_eq]) (by simp [storeRomBit, readSlot_eq])
    have h := ih (storeRomBit (readSlot s)) (by simp [storeRomBit, readSlot_eq])
      (by simp [storeRomBit, readSlot_eq])
    have hs : readSlotsOf (n + 1) s = .r (level s 0) :: readSlotsOf n (storeRomBit (readSlot s)) := by
      simp [readSlotsOf, levels_succ n hl]
    rw [hs, ← latchAfter_succ n (t := storeRomBit (readSlot s)) (by simp [storeRomBit, readSlot_eq]) hl]
    ext1
    case rom => rfl
    case trace => rw [readAddressBits, h]; simp [storeRomBit, readSlot_eq, ← afterSlots_cons]
    all_goals rw [readAddressBits, h] <;> simp [storeRomBit, readSlot_eq, ht, Nat.add_comm, Nat.add_left_comm]

/-- The bits of `ROM` after `n` read slots of a READ_ADDRESS (R201). -/
theorem readAddressBits_rom (n : Nat) (s : State) (hn : s.bitPos + n ≤ 64) (q : Nat) :
    bitAt (readAddressBits n s).rom q =
      if s.bitPos ≤ q ∧ q < s.bitPos + n then level s (q - s.bitPos) else bitAt s.rom q := by
  induction n generalizing s with
  | zero => simp [readAddressBits, show ¬(s.bitPos ≤ q ∧ q < s.bitPos) by omega]
  | succ n ih =>
    have hl : ∀ k, level (storeRomBit (readSlot s)) k = level s (1 + k) :=
      level_after 1 (by simp [storeRomBit, readSlot_eq]) (by simp [storeRomBit, readSlot_eq])
    have hp : (storeRomBit (readSlot s)).bitPos = s.bitPos + 1 := by simp [storeRomBit, readSlot_eq]
    have hr : (storeRomBit (readSlot s)).rom = setBit s.rom s.bitPos (level s 0) := by
      simp [storeRomBit, readSlot_eq]
    rw [readAddressBits, ih _ (by omega), hp, hr, hl, bitAt_setBit _ _ _ _ (by omega)]
    by_cases h1 : q = s.bitPos
    · subst h1; simp
    · by_cases h2 : s.bitPos + 1 ≤ q ∧ q < s.bitPos + 1 + n
      · rw [if_pos h2, if_pos (by omega)]; congr 1; omega
      · rw [if_neg h2, if_neg h1, if_neg (by omega)]

/-- The choice reads these five fields only (R176, R178). -/
theorem chosenBit_congr {s t : State} (h1 : t.idBit = s.idBit) (h2 : t.cmpBit = s.cmpBit)
    (h3 : t.bitPos = s.bitPos) (h4 : t.lastFork = s.lastFork) (h5 : t.rom = s.rom) :
    chosenBit t = chosenBit s := by
  simp [chosenBit, collision, h1, h2, h3, h4, h5]

theorem recordZero_eq (s : State) : recordZero s =
    { s with lastZero := if collision s && !chosenBit s then s.bitPos + 1 else s.lastZero } := by
  unfold recordZero
  split <;> rfl

theorem chosenBit_recordZero (s : State) : chosenBit (recordZero s) = chosenBit s := by
  rw [recordZero_eq]; exact chosenBit_congr rfl rfl rfl rfl rfl

theorem chosenBit_writeSlot (b : Bool) (s : State) : chosenBit (writeSlot b s) = chosenBit s := by
  rw [writeSlot_eq]; exact chosenBit_congr rfl rfl rfl rfl rfl

/-- The discovery pair of a position (R175), on the oracle's next two answers. -/
theorem discoveryPair_eq (s : State) : discoveryPair s =
    { afterBus 2 [.r (level s 0), .r (level s 1)] s with
      timer := 0, latch := level s 1, idBit := level s 0, cmpBit := level s 1 } := by
  have h1 : level (latchId (readSlot s)) 0 = level s 1 :=
    level_after 1 (by simp [latchId, readSlot_eq]) (by simp [latchId, readSlot_eq]) 0
  rw [discoveryPair, readSlot_eq (latchId _), h1]
  ext1
  case trace => simp [latchCmp, latchId, readSlot_eq, afterSlots_cons (.r (level s 0)) [.r (level s 1)]]
  all_goals simp [latchCmp, latchId, readSlot_eq]

/-- One position of SEARCH (R175 to R181), on the oracle's next two answers. -/
theorem searchPosition_eq (s : State) :
    searchPosition s =
      let t := { s with idBit := level s 0, cmpBit := level s 1 }
      if level s 0 && level s 1 then .raised .noPresence (discoveryPair s)
      else
        .running { afterBus 2 [.r (level s 0), .r (level s 1), .w (chosenBit t)] t with
          timer := 0, latch := level s 1
          rom := setBit s.rom s.bitPos (chosenBit t), bitPos := s.bitPos + 1
          lastZero := if collision t && !chosenBit t then s.bitPos + 1 else s.lastZero } := by
  have hc : chosenBit (discoveryPair s) = chosenBit { s with idBit := level s 0, cmpBit := level s 1 } := by
    rw [discoveryPair_eq]; exact chosenBit_congr rfl rfl rfl rfl rfl
  have hz : collision (discoveryPair s) = collision { s with idBit := level s 0, cmpBit := level s 1 } := by
    simp [discoveryPair_eq, collision]
  have hp : silentPair (discoveryPair s) = (level s 0 && level s 1) := by
    simp [discoveryPair_eq, silentPair]
  simp only [searchPosition, hp, chosenBit_recordZero, storeChosen, chosenBit_writeSlot, hc]
  split
  · rfl
  · rw [recordZero_eq, hz, hc]
    generalize chosenBit _ = c
    generalize collision _ = z
    rw [Progress.running.injEq]
    ext1
    case trace =>
      simp only [writeSlot_eq, discoveryPair_eq, afterBus_trace]
      exact (afterSlots_append [.r (level s 0), .r (level s 1)] [.w c] s.trace).symm
    all_goals simp [writeSlot_eq, discoveryPair_eq]

/-! The ends of a command. -/

@[simp] theorem andThen_running (s : State) (f : State → Progress) :
    (Progress.running s).andThen f = f s := rfl

@[simp] theorem andThen_raised (e : ErrorKind) (s : State) (f : State → Progress) :
    (Progress.raised e s).andThen f = .raised e s := rfl

@[simp] theorem settle_running (s : State) : (Progress.running s).settle = finish s := rfl

@[simp] theorem settle_raised (e : ErrorKind) (s : State) : (Progress.raised e s).settle = raise e s := rfl

/-- `andThen` answers `running` in one way only. -/
theorem andThen_eq_running_iff (p : Progress) (f : State → Progress) (t : State) :
    p.andThen f = .running t ↔ ∃ s, p = .running s ∧ f s = .running t := by
  cases p <;> simp

/-- Step 4 of a pass answers in one of two ways (R185, R186). -/
theorem appendCandidate_cases (s : State) :
    (regCount s = s.regDepth ∧ appendCandidate s = .raised .registryFull s) ∨
    (regCount s ≠ s.regDepth ∧ appendCandidate s =
      .running { s with registry := s.registry ++ [s.rom], lastFork := s.lastZero }) := by
  by_cases h : regCount s = s.regDepth <;> simp [appendCandidate, h]

/-! The trace determines its slots. -/

theorem slotEvents_append_inj (x y : Slot) (u v : List PinEvent)
    (h : slotEvents x ++ u = slotEvents y ++ v) : x = y ∧ u = v := by
  match x, y with
  | .rst _, .rst _ => simpa [slotEvents] using h
  | .r _, .r _ => simpa [slotEvents] using h
  | .w true, .w true => simpa [slotEvents] using h
  | .w false, .w false => simpa [slotEvents] using h
  | .rst _, .r _ => simp [slotEvents] at h
  | .r _, .rst _ => simp [slotEvents] at h
  | .rst _, .w true => simp [slotEvents] at h
  | .rst _, .w false => simp [slotEvents] at h
  | .r _, .w true => simp [slotEvents] at h
  | .r _, .w false => simp [slotEvents] at h
  | .w true, .rst _ => simp [slotEvents] at h
  | .w false, .rst _ => simp [slotEvents] at h
  | .w true, .r _ => simp [slotEvents] at h
  | .w false, .r _ => simp [slotEvents] at h
  | .w true, .w false => simp [slotEvents] at h
  | .w false, .w true => simp [slotEvents] at h

theorem slotsEvents_injective {x y : List Slot} (h : slotsEvents x = slotsEvents y) : x = y := by
  have he : ∀ z : Slot, slotEvents z ≠ [] := by
    intro z; match z with
    | .rst _ => simp [slotEvents]
    | .r _ => simp [slotEvents]
    | .w true => simp [slotEvents]
    | .w false => simp [slotEvents]
  induction x generalizing y with
  | nil => cases y with
    | nil => rfl
    | cons b y => simp [slotsEvents, he] at h
  | cons a x ih => cases y with
    | nil => simp [slotsEvents, he] at h
    | cons b y =>
      obtain ⟨rfl, h'⟩ := slotEvents_append_inj a b (slotsEvents x) (slotsEvents y) (by simpa [slotsEvents] using h)
      rw [ih h']

/-- Two readings of one trace as slots are the same reading. -/
theorem afterSlots_injective {x y : List Slot} {tr : List PinEvent}
    (h : afterSlots x tr = afterSlots y tr) : x = y := by
  simp only [afterSlots, List.append_cancel_right_eq, List.reverse_inj] at h
  exact slotsEvents_injective h

end Sys2Proof.Machine
end

