-- ==== Sys2Proof/Laws/PerInstr.lean ====
section
/-! SUPPORT. Per-instruction families: statements about the commands as syntax, one lemma a constructor. -/

/-- The fields R90 gives a command word hold the command's opcode and operand. -/
def Sys2Proof.Laws.EncodedFields.Statement (i : Sys2Proof.Instr) : Prop :=
  Sys2Proof.opcodeField (Sys2Proof.encode i) = i.opcode ∧
  Sys2Proof.operandField (Sys2Proof.encode i) = i.operand

namespace Sys2Proof.Laws.EncodedFields

/-- The fields of a word put together of an opcode and an operand (R90). -/
theorem fields_of_word (opcode operand : Byte) :
    opcodeField (opcode ++ operand) = opcode ∧ operandField (opcode ++ operand) = operand := by
  constructor
  · apply BitVec.eq_of_getLsbD_eq
    intro k hk
    simp only [opcodeField, BitVec.getLsbD_extractLsb', hk]
    exact (BitVec.getLsbD_append (x := opcode) (y := operand)).trans (by simp)
  · apply BitVec.eq_of_getLsbD_eq
    intro k hk
    simp only [operandField, BitVec.getLsbD_extractLsb', hk]
    exact (BitVec.getLsbD_append (x := opcode) (y := operand)).trans (by simp [hk])

theorem reset : Statement .reset := fields_of_word _ _
theorem writeBit (operand : Byte) : Statement (.writeBit operand) := fields_of_word _ _
theorem readBit : Statement .readBit := fields_of_word _ _
theorem writeByte (v : Byte) : Statement (.writeByte v) := fields_of_word _ _
theorem readByte : Statement .readByte := fields_of_word _ _
theorem search : Statement .search := fields_of_word _ _
theorem readAddress : Statement .readAddress := fields_of_word _ _
theorem select (index : Byte) : Statement (.select index) := fields_of_word _ _
theorem crcInit : Statement .crcInit := fields_of_word _ _
theorem crcByte (v : Byte) : Statement (.crcByte v) := fields_of_word _ _
theorem crcCheck (v : Byte) : Statement (.crcCheck v) := fields_of_word _ _
theorem crcAddr (index : Byte) : Statement (.crcAddr index) := fields_of_word _ _

end Sys2Proof.Laws.EncodedFields
end

