-- ==== Sys2Proof/Tests/Slice0.lean ====
section
/-! SUPPORT. The model's own tests: decoding of words written out from R92 bit by bit, one or two small
facts per command from 95_test_vectors.md (the vector's name is given), and, for every statement with
hypotheses, a concrete state and operands that meet them. -/

namespace Sys2Proof.Tests

open Sys2Proof.Machine

/-- The core after reset with these answers on the line. -/
def onLine (line : List Bool) : State := { State.reset with line := line }

/-- The state a command leaves (the state it started from, should it stop). -/
def after (i : Instr) (s : State) : State :=
  match exec i s with
  | .next t => t
  | .fault _ => s
  | .refused _ => s

/-- Address A of 95_test_vectors.md, and address B. -/
def addrA : Address := 0x2900000000000128
@[inherit_doc addrA] def addrB : Address := 0x7000000000000228

/-- The 64 bits of an address, bit 0 first. -/
def wireBits (a : Address) : List Bool := (List.range 64).map (bitAt a)

/-- What a lone slave answers to a SEARCH pass (V-S1). -/
def lonePass (a : Address) : List Bool := false :: (wireBits a).flatMap fun b => [b, !b]

/-- A core that holds A and B. -/
def holdsAB (line : List Bool) : State := { onLine line with registry := [addrA, addrB] }

theorem exec_answers_next (i : Instr) (s : State) : exec i s = .next (after i s) := by
  cases i <;> rfl

/-! WellFormed refuses. -/

theorem test_writeBit_operand_two_is_ill_formed : (Instr.writeBit 2).wellFormed = false := by decide
theorem test_writeBit_operand_128_is_ill_formed : (Instr.writeBit 0x80).wellFormed = false := by decide
theorem test_writeBit_operand_one_is_well_formed : (Instr.writeBit 1).wellFormed = true := by decide

/-! Decoding, words written out from R92: opcode in [15:8], operand in [7:0]. -/

theorem test_decode_reset : decode 0b0000000100000000#16 = .ok .reset := by decide
theorem test_decode_writeBit : decode 0b0000001000000001#16 = .ok (.writeBit 1) := by decide
theorem test_decode_readBit : decode 0b0000001100000000#16 = .ok .readBit := by decide
theorem test_decode_writeByte : decode 0b0000010011110000#16 = .ok (.writeByte 0xF0) := by decide
theorem test_decode_readByte : decode 0b0000010100000000#16 = .ok .readByte := by decide
theorem test_decode_search : decode 0b0000011000000000#16 = .ok .search := by decide
theorem test_decode_readAddress : decode 0b0000011100000000#16 = .ok .readAddress := by decide
theorem test_decode_select : decode 0b0000100000000011#16 = .ok (.select 3) := by decide
theorem test_decode_crcInit : decode 0b0000100100000000#16 = .ok .crcInit := by decide
theorem test_decode_crcByte : decode 0b0000101000101000#16 = .ok (.crcByte 0x28) := by decide
theorem test_decode_crcCheck : decode 0b0000101111100001#16 = .ok (.crcCheck 0xE1) := by decide
theorem test_decode_crcAddr : decode 0b0000110011111111#16 = .ok (.crcAddr 255) := by decide
/-- V-E1, V-E2, V-E3, V-E6. -/
theorem test_decode_illegal : decode 0x0000 = .error .unknownOpcode ∧ decode 0x0101 = .error .operandNotZero ∧
    decode 0x0202 = .error .bitOperandTooWide ∧ decode 0x0D00 = .error .unknownOpcode ∧
    decode 0xFFFF = .error .unknownOpcode := by decide

/-! CRC (V-C4, V-C9, V-C12, V-C18, V-C37 to V-C39). -/

theorem test_crc8_of_01 : crc8 [0x01] = 0x5E := by decide
theorem test_crc8_of_A : crc8 (lowBytes addrA) = 0x29 := by decide +kernel
theorem test_crc8_of_application_note : crc8 [0x02, 0x1C, 0xB8, 0x01, 0x00, 0x00, 0x00] = 0xA2 := by decide +kernel
theorem test_crcByte : (after (.crcByte 0x28) State.reset).crcAcc = 0xE1 := by decide
theorem test_crcCheck_mismatch_is_no_error :
    (after (.crcCheck 0xE0) { State.reset with crcAcc := 0xE1 }).err = 0 := by decide
theorem test_crcAddr : (after (.crcAddr 0) (holdsAB [])).crcAcc = 0x29 := by decide +kernel
theorem test_crcAddr_badIndex : (after (.crcAddr 2) (holdsAB [])).err = 5 := by decide

/-! Bit and byte transport (V-B1, V-B2, V-B3, V-B7, V-Y6, V-Y8). -/

theorem test_reset_present : (after .reset (onLine [false])).trace =
    [.W 410, .S false, .W 70, .Z, .W 480, .L] := by decide
theorem test_reset_nobody : (after .reset (onLine [true])).err = 1 := by decide
theorem test_writeBit_one : (after (.writeBit 1) State.reset).trace = [.W 60, .Z, .W 5, .L] := by decide
theorem test_readBit : (after .readBit { onLine [true] with data := 0xA7 }).data = 0x01 := by decide
theorem test_writeByte : (after (.writeByte 0x01) State.reset).trace.reverse.take 8 =
    [.L, .W 5, .Z, .W 60, .L, .W 60, .Z, .W 5] := by decide
theorem test_readByte :
    (after .readByte (onLine [true, false, false, false, true, false, false, true])).data = 0x91 := by decide

/-! Addressing (V-A2, V-A1, V-A7, V-A9). -/

theorem test_readAddress : (after .readAddress (onLine (false :: wireBits addrA))).registry = [addrA] := by
  decide +kernel
theorem test_readAddress_mismatch :
    (after .readAddress (onLine (false :: wireBits 0x2B00000000000128))).err = 2 := by decide +kernel
theorem test_select_starts_with_family_bits_of_A :
    ((after (.select 0) (holdsAB [false])).trace.reverse.drop (6 + 8 * 4)).take 16 =
      slotsEvents [.w false, .w false, .w false, .w true] := by decide +kernel
theorem test_select_badIndex : (after (.select 2) (holdsAB [])).trace = [] := by decide

/-! Search (V-S1, V-S8). -/

theorem test_search_one_slave : (after .search (onLine (lonePass addrA))).registry = [addrA] := by
  decide +kernel
theorem test_search_nobody : (after .search (holdsAB [true])).registry = [] := by decide

/-- A line stuck low for a SEARCH with a registry of `depth` entries (V-S11). -/
def stuckLow (depth : Nat) : State :=
  { onLine (List.replicate ((depth + 1) * 129) false) with regDepth := depth }

/-- V-S11. -/
theorem test_search_stuck_low : (after .search (stuckLow 2)).err = 6 ∧
    (after .search (stuckLow 2)).registry = [0x0, 0x8000000000000000] := by decide +kernel

/-! Small steps, host port, consumer layer (V-H8, V-H10, V-H12, V-T1, V-T5, V-T9). -/

/-- V-H12: a write while RESET runs is dropped and sets `OVR`; STATUS reads 0x02 at the end, 0x00 after
the clear. -/
theorem test_overrun :
    (match Sys2Proof.core.run 5 { onLine [false] with
        inputs := [.post 0x0100, .run 3, .write 0 4 0x0500, .run 2000, .read 4 4] } with
      | .next t => t.hostData | _ => 0) = 0x02 ∧
    (match Sys2Proof.core.run 2 { State.reset with ovr := true, inputs := [.write 4 4 2, .read 4 4] } with
      | .next t => t.hostData | _ => 1) = 0x00 := by decide +kernel

/-- V-H2: STATUS reads 0x01 while RESET runs. -/
theorem test_status_while_busy :
    (match Sys2Proof.core.run 3 { onLine [false] with inputs := [.post 0x0100, .run 3, .read 4 4] } with
      | .next t => t.hostData | _ => 0) = 0x01 := by decide +kernel

theorem test_small_steps_of_readBit :
    (match seqRun 200 (beginCommand .readBit (onLine [true])) with
      | .next t => decide (t = after .readBit (onLine [true])) | _ => false) = true := by decide +kernel

theorem test_window : (readReg .regLo (holdsAB []), readReg .regHi (holdsAB [])) =
    (0x00000128, 0x29000000) := by decide
theorem test_regIndex_write : (writeRegIndex 0x12345 State.reset).regIndex = 0x45 := by decide
theorem test_milliDegrees : milliDegrees 0x91 0x01 = 25062 ∧ milliDegrees 0xFF 0xFF = -62 := by decide
/-- V-T9: success, also after a command that failed. -/
theorem test_setResolution_8_is_silent :
    setResolution 0 8 { State.reset with err := 1 } = (.ok (), { State.reset with err := 1 }) := rfl
theorem test_requestTemperature_badIndex : (requestTemperature 2 (holdsAB [])).1 = .error 5 := rfl
theorem test_withFetchWord_runs_the_word :
    step (State.reset.withFetchWord 16 0x0A28) = exec (.crcByte 0x28) State.reset := by rfl

/-! ## Witnesses: the hypotheses of each statement, met together -/

/-- A core in the middle of a RESET, in its 480 us `Wait`. -/
def midReset : State :=
  match seqRun 5 (beginCommand .reset (onLine [false])) with
  | .next t => t
  | .fault _ => State.reset
  | .refused _ => State.reset

/-- A, its CRC byte damaged (V-A2). -/
def addrDamaged : Address := 0x2B00000000000128

/-- The scratchpad image of V-T1. -/
def image : Scratchpad := ⟨0x91, 0x01, 0x4B, 0x46, 0x7F, 0xFF, 0x0C, 0x10, 0x70⟩

/-- A bus with A and B on it, and one with A alone. -/
def busAB : Bus := Bus.fresh [⟨addrA, none⟩, ⟨addrB, none⟩]
@[inherit_doc busAB] def busA : Bus := Bus.fresh [⟨addrA, none⟩]

/-- A core that holds A and B, in the middle of a RESET, the window on entry `index`. -/
def busyHoldsAB (index : Byte) (depth : Nat) : State :=
  { midReset with registry := [addrA, addrB], regIndex := index, regDepth := depth }

theorem idle_reset : Idle State.reset := ⟨rfl, rfl, rfl, rfl⟩
theorem idle_holdsAB (line : List Bool) : Idle (holdsAB line) := ⟨rfl, rfl, rfl, rfl⟩

theorem witness_DecodeOfEncodeIsTheCommand : (Instr.writeBit 1).wellFormed = true := by decide
theorem witness_DecodedWordIsItsEncoding : decode 0x0201 = .ok (.writeBit 1) := by decide
theorem witness_DecodeFollowsTheOpcodeMap :
    decode 0x0803 = .ok (.select 3) ∧ (⟨"SELECT", 0x0800, 0xFF00⟩ : OpcodeRow) ∈ opcodeRows ∧
    (⟨"SELECT", 0x0800, 0xFF00⟩ : OpcodeRow).selectedBy 0x0803 = true := by decide
theorem witness_IllegalWordsAreRejectedByName :
    decode ((0x0D : Byte) ++ (0x00 : Byte)) = .error .unknownOpcode ∧
    decode ((0x0C : Byte) ++ (0x00 : Byte)) = .ok (.crcAddr 0) ∧
    decode ((0x09 : Byte) ++ (0x01 : Byte)) = .error .operandNotZero ∧
    decode ((0x02 : Byte) ++ (0x02 : Byte)) = .error .bitOperandTooWide := by decide
theorem witness_StepRunsTheDecodedCommand :
    (∃ (s : State) (v : HostWord) (i : Instr), s.inputs = [.write 0x00 4 v] ∧ s.busy = false ∧ decode (v.setWidth 16) = .ok i) ∧
    decodeTableWord 16 0x0100 = some .reset :=
  ⟨⟨{ State.reset with inputs := [.write 0 4 0xABCD0100] }, 0xABCD0100, .reset, by decide⟩, by decide⟩
theorem witness_IllegalWordOnlySetsErr :
    Idle State.reset ∧ decode ((0 : HostWord).setWidth 16) = .error .unknownOpcode :=
  ⟨idle_reset, by decide⟩
theorem witness_CommandWriteWhileBusyIsDropped : midReset.busy = true := by decide
theorem witness_OvrIsStickyAndSetOnlyByADroppedWrite :
    (midReset.busy = true ∧ (0x2 : HostWord).getLsbD 1 = true ∧ ∃ t, hostRead 0x04 4 midReset = .next t) ∧
    (∃ s t, step s = .next t ∧ s.ovr = false ∧ t.ovr = true) ∧
    (∃ s t, step s = .next t ∧ s.ovr = true ∧ t.ovr = false ∧ s.inputs = [.write 4 4 2]) ∧
    (∃ s t, step s = .next t ∧ s.ovr = true ∧ t.ovr = false ∧ s.inputs = [.coreReset]) :=
  ⟨⟨by decide, by decide, _, rfl⟩,
   ⟨{ State.reset with busy := true, inputs := [.post 0x0100] }, _, rfl, rfl, rfl⟩,
   ⟨{ State.reset with ovr := true, inputs := [.write 4 4 2] }, _, rfl, rfl, rfl, rfl⟩,
   ⟨{ State.reset with ovr := true, inputs := [.coreReset] }, _, rfl, rfl, rfl, rfl⟩⟩
theorem witness_HostReadsTheRegisters :
    Idle (holdsAB []) ∧ regCount (holdsAB []) ≤ 256 ∧
    (∀ addr ∈ [0x00, 0x04, 0x08, 0x0C, 0x10, 0x14, 0x18, 0x1C], addr % 4 = 0 ∧ addr < 0x20 ∧
      ∃ t, hostRead addr 4 (holdsAB []) = .next t) := by
  refine ⟨idle_holdsAB [], by decide, ?_⟩
  simp only [List.mem_cons, List.not_mem_nil, or_false]
  rintro addr (rfl | rfl | rfl | rfl | rfl | rfl | rfl | rfl) <;> exact ⟨by decide, by decide, _, rfl⟩
theorem witness_ReadsWhileBusySettled :
    midReset.seq.op = some .reset ∧ midReset.busy = true ∧ regCount midReset ≤ 256 ∧
    (∃ t u v, hostRead 0x08 4 midReset = .next t ∧ hostRead 0x0C 4 midReset = .next u ∧
      hostRead 0x10 4 midReset = .next v) ∧
    (∃ t u, (busyHoldsAB 1 2).seq.op = some .reset ∧ regCount (busyHoldsAB 1 2) ≤ (busyHoldsAB 1 2).regDepth ∧
      (busyHoldsAB 1 2).registry[(busyHoldsAB 1 2).regIndex.toNat]? = some addrB ∧
      hostRead 0x18 4 (busyHoldsAB 1 2) = .next t ∧ hostRead 0x1C 4 (busyHoldsAB 1 2) = .next u) ∧
    (∃ t u, (busyHoldsAB 2 2).seq.op = some .reset ∧
      (busyHoldsAB 2 2).regDepth ≤ (busyHoldsAB 2 2).regIndex.toNat ∧
      hostRead 0x18 4 (busyHoldsAB 2 2) = .next t ∧ hostRead 0x1C 4 (busyHoldsAB 2 2) = .next u) :=
  ⟨by decide, by decide, by decide, ⟨_, _, _, rfl, rfl, rfl⟩,
   ⟨_, _, by decide, by decide, by decide, rfl, rfl⟩, ⟨_, _, by decide, by decide, rfl, rfl⟩⟩
theorem witness_WindowShowsTheEntry :
    (∃ s t u, Idle s ∧ regCount s ≤ s.regDepth ∧ hostRead 0x18 4 s = .next t ∧ hostRead 0x1C 4 s = .next u ∧
      s.registry[s.regIndex.toNat]? = some addrB) ∧
    (∃ s t u, Idle s ∧ regCount s ≤ s.regDepth ∧ hostRead 0x18 4 s = .next t ∧ hostRead 0x1C 4 s = .next u ∧
      s.regDepth ≤ s.regIndex.toNat) :=
  ⟨⟨{ holdsAB [] with regIndex := 1 }, _, _, ⟨rfl, rfl, rfl, rfl⟩, by decide, rfl, rfl, by decide⟩,
   ⟨{ holdsAB [] with regDepth := 2, regIndex := 2 }, _, _, ⟨rfl, rfl, rfl, rfl⟩, by decide, rfl, rfl, by decide⟩⟩
theorem witness_OnlyAlignedWordsAreAccepted : (2 % 4 ≠ 0 ∨ 4 ≠ 4) ∧ (4 % 4 ≠ 0 ∨ 2 ≠ 4) := by decide
theorem witness_CrcLaws : [0x01#8].length = [0x02#8].length ∧ 0xA5#8 ^^^ 0x5A#8 = 0xFF#8 ^^^ 0x00#8 := by
  decide
theorem witness_CrcByteUpdatesTheAccumulator : State.reset.crcAcc = 0 := by decide
theorem witness_CrcAddrChecksAnEntry :
    (holdsAB []).registry[(0 : Byte).toNat]? = some addrA ∧ Idle (holdsAB []) ∧
    regCount (holdsAB []) ≤ (2 : Byte).toNat ∧
    ({ State.reset with registry := [0] } : State).registry[(0 : Byte).toNat]? = some 0 :=
  ⟨by decide, idle_holdsAB [], by decide, by decide⟩
theorem witness_WriteBitSendsOneSlot : (1 : Byte) >>> 1 = 0 ∧ (2 : Byte) >>> 1 ≠ 0 := by decide
theorem witness_ByteCommandsAreEightBitCommands :
    (∃ t u, exec (.writeByte 0xF0) State.reset = .next t ∧
      runCommands ((List.range 8).map fun k => .writeBit (if (0xF0 : Byte).getLsbD k then 1 else 0))
        State.reset = .next u) ∧
    (∃ t u, exec .readByte State.reset = .next t ∧
      runCommands (List.replicate 8 .readBit) State.reset = .next u) :=
  ⟨⟨_, _, rfl, rfl⟩, ⟨_, _, rfl, rfl⟩⟩
theorem witness_ReadAddressReadsAndChecks :
    level (onLine [true]) 0 = true ∧
    (level (onLine (false :: wireBits addrA)) 0 = false ∧
      (∀ p < 64, level (onLine (false :: wireBits addrA)) (1 + p) = bitAt addrA p) ∧
      crc8 (lowBytes addrA) = byteOf addrA 7) ∧
    (level (onLine (false :: wireBits addrDamaged)) 0 = false ∧
      (∀ p < 64, level (onLine (false :: wireBits addrDamaged)) (1 + p) = bitAt addrDamaged p) ∧
      crc8 (lowBytes addrDamaged) ≠ byteOf addrDamaged 7) := by decide +kernel
theorem witness_SelectSendsTheEntry :
    (Idle (holdsAB []) ∧ regCount (holdsAB []) ≤ (2 : Byte).toNat) ∧
    ((0 : Byte).toNat < regCount (holdsAB [true]) ∧ level (holdsAB [true]) 0 = true) ∧
    ((holdsAB [false]).registry[(1 : Byte).toNat]? = some addrB ∧ level (holdsAB [false]) 0 = false) :=
  ⟨⟨idle_holdsAB [], by decide⟩, by decide, by decide⟩
theorem witness_SelectLeavesOnlyTheAddressedSlaveActive :
    ∃ t sl, (holdsAB [false]).registry[(0 : Byte).toNat]? = some addrA ∧
      exec (.select 0) (holdsAB [false]) = .next t ∧ SentSlots (holdsAB [false]) t sl ∧
      (busRun busAB sl).isSome = true ∧ t.err = 0 :=
  ⟨after (.select 0) (holdsAB [false]), .rst false :: (byteSlots 0x55 ++ addressSlots addrA),
   by decide, exec_answers_next _ _, by unfold SentSlots; decide +kernel, by decide +kernel, by decide +kernel⟩
theorem witness_ReadAddressFindsTheLoneSlave :
    ∃ t sl, busA.slaves = [⟨addrA, none⟩] ∧ validAddress addrA = true ∧
      exec .readAddress (onLine (false :: wireBits addrA)) = .next t ∧
      SentSlots (onLine (false :: wireBits addrA)) t sl ∧ (busRun busA sl).isSome = true :=
  ⟨after .readAddress (onLine (false :: wireBits addrA)),
   .rst false :: (byteSlots 0x33 ++ (wireBits addrA).map .r),
   by decide, by decide +kernel, exec_answers_next _ _, by unfold SentSlots; decide +kernel, by decide +kernel⟩
theorem witness_SearchOfOneSlaveTakesOnePass :
    1 ≤ (onLine (lonePass addrA)).regDepth ∧ level (onLine (lonePass addrA)) 0 = false ∧
    (∀ p < 64, level (onLine (lonePass addrA)) (1 + 2 * p) = bitAt addrA p ∧
      level (onLine (lonePass addrA)) (2 + 2 * p) = !bitAt addrA p) := by decide +kernel
/-- What the two slaves of `busAB` answer to SEARCH (V-S2): a collision at position 8, B first. -/
def searchOfAB : List (List Triplet) :=
  [(List.range 64).map fun p =>
    if p = 8 then ⟨false, false, false⟩ else ⟨bitAt addrB p, !bitAt addrB p, bitAt addrB p⟩,
   (List.range 64).map fun p =>
    if p = 8 then ⟨false, false, true⟩ else ⟨bitAt addrA p, !bitAt addrA p, bitAt addrA p⟩]

/-- The core of `searchOfAB`, with a registry of exactly two entries. -/
def facingAB : State :=
  { onLine (slotSamples (searchOfAB.flatMap passSlots)) with regDepth := 2 }

/-- V-S1 and V-S2 on the ideal bus: one slave, and as many slaves as the registry has entries. -/
theorem witness_SearchFindsEverySlaveOnce :
    (∃ t sl, busAB.slaves ≠ [] ∧ (busAddresses busAB).Nodup ∧ busAB.slaves.length = facingAB.regDepth ∧
      exec .search facingAB = .next t ∧ SentSlots facingAB t sl ∧ (busRun busAB sl).isSome = true) ∧
    ∃ t sl, busA.slaves ≠ [] ∧ (busAddresses busA).Nodup ∧
      busA.slaves.length ≤ (onLine (lonePass addrA)).regDepth ∧
      exec .search (onLine (lonePass addrA)) = .next t ∧ SentSlots (onLine (lonePass addrA)) t sl ∧
      (busRun busA sl).isSome = true :=
  ⟨⟨after .search facingAB, searchOfAB.flatMap passSlots, by decide, by decide, by decide,
    exec_answers_next _ _, by unfold SentSlots; decide +kernel, by decide +kernel⟩,
   after .search (onLine (lonePass addrA)), passSlots ((wireBits addrA).map fun b => ⟨b, !b, b⟩),
   by decide, by decide, by decide, exec_answers_next _ _, by unfold SentSlots; decide +kernel, by decide +kernel⟩
theorem witness_EmptyBusRaisesNoPresence :
    level (onLine [true]) 0 = true ∧ (onLine [true]).registry = [] := by decide
theorem witness_CommandsKeepToTheirWriteSets :
    State.reset.dqOe = false ∧ (∃ t, exec .reset State.reset = .next t) ∧
    (∃ t, exec (.crcByte 1) State.reset = .next t) ∧ ∃ t, exec (.select 0) (holdsAB [false]) = .next t :=
  ⟨rfl, ⟨_, rfl⟩, ⟨_, rfl⟩, _, rfl⟩
theorem witness_CommandsRaiseOnlyTheirOwnErrors :
    (∃ t, exec (.select 1) (holdsAB [true]) = .next t) ∧ (1 : Byte).toNat < regCount (holdsAB [true]) ∧
    (∃ t, exec (.select 2) (holdsAB []) = .next t) ∧ ¬ (2 : Byte).toNat < regCount (holdsAB []) :=
  ⟨⟨_, rfl⟩, by decide, ⟨_, rfl⟩, by decide⟩
theorem witness_CommandsSendWholeSlotsAndSampleInOrder :
    ∃ t, exec .readAddress (onLine [false, true]) = .next t := ⟨_, rfl⟩
/-- The clauses of SEARCH: one that succeeds, and one without slaves. -/
theorem witness_CommandsTakeTheirDurations :
    (∃ t, exec .search (onLine (lonePass addrA)) = .next t) ∧
    (after .search (onLine (lonePass addrA))).err = 0 ∧
    (∃ t, exec .search (onLine [true]) = .next t) ∧ level (onLine [true]) 0 = true :=
  ⟨⟨_, rfl⟩, by decide +kernel, ⟨_, rfl⟩, by decide⟩
theorem witness_EveryCommandEndsInBoundedTime : State.reset.busy = false := rfl
theorem witness_CommandLocalStateIsNeverRead :
    ∃ s s' t t', s ≠ s' ∧ forgetLocal s = forgetLocal s' ∧ exec .search s = .next t ∧ exec .search s' = .next t' :=
  ⟨State.reset, { State.reset with rom := 5, lastFork := 3 }, _, _, by decide, by decide,
   exec_answers_next _ _, exec_answers_next _ _⟩
theorem inv_reset : Inv State.reset := by
  constructor <;> first | decide | exact .inl idle_reset
theorem running_midReset : Running midReset where
  busy := by decide
  err := by decide
  position := by decide
  dqOe := by decide
  timer := by decide
  byteBits := by decide
  dataBits := fun _ _ hp => absurd hp (by decide)
  index := fun k hk => absurd hk (by
    have h : midReset.seq.op = some .reset := by decide
    rw [h]; intro e; cases e)
theorem inv_midReset : Inv midReset := by
  constructor <;> first | decide | exact .inr running_midReset
theorem witness_EveryStepKeepsTheInvariant :
    (∃ t, Inv State.reset ∧ step State.reset = .next t) ∧ (∃ t, Inv midReset ∧ step midReset = .next t) :=
  ⟨⟨_, inv_reset, rfl⟩, ⟨_, inv_midReset, rfl⟩⟩
theorem witness_NoStepFaultsUnderTheInvariant : Inv State.reset ∧ Inv midReset := ⟨inv_reset, inv_midReset⟩
theorem witness_SmallStepsReachTheCommandsEnd :
    zeroTime .reset State.reset = false ∧ zeroTime (.select 1) (holdsAB []) = false := by decide
theorem witness_PostedCommandIsAcceptedInOneCycle :
    State.reset.busy = false ∧ decode ((0x0600 : HostWord).setWidth 16) = .ok .search ∧
    zeroTime .search State.reset = false ∧ decode ((0x0900 : HostWord).setWidth 16) = .ok .crcInit ∧
    zeroTime .crcInit State.reset = true := by decide
theorem witness_StuckAndIdleLines :
    (∀ k < 65, level (onLine (List.replicate 65 false)) k = false) ∧
    (∀ k < 8, level (onLine (List.replicate 8 true)) k = true) ∧
    ((1 : Byte).toNat < regCount (holdsAB [false]) ∧ level (holdsAB [false]) 0 = false) ∧
    ((stuckLow 2).regDepth ≤ 256 ∧ ∀ k < ((stuckLow 2).regDepth + 1) * 129, level (stuckLow 2) k = false) ∧
    (Idle (holdsAB (List.replicate 73 false)) ∧
      (0 : Byte).toNat < regCount (holdsAB (List.replicate 73 false)) ∧
      ∀ k < 73, level (holdsAB (List.replicate 73 false)) k = false) :=
  ⟨by decide +kernel, by decide +kernel, by decide, by decide +kernel, idle_holdsAB _, by decide,
   by decide +kernel⟩
theorem level_stuckLow (depth k : Nat) (hk : k < (depth + 1) * 129) : level (stuckLow depth) k = false :=
  level_of_line _ k false
    (List.getElem?_eq_some_iff.mpr ⟨by simpa [stuckLow, onLine] using hk, by simp [stuckLow, onLine]⟩)
theorem witness_SearchOnAStuckLowLineFillsTheRegistry :
    (stuckLow 256).regDepth ≤ 256 ∧
    ∀ k < ((stuckLow 256).regDepth + 1) * 129, level (stuckLow 256) k = false :=
  ⟨Nat.le_refl 256, level_stuckLow 256⟩
theorem witness_TemperatureArithmetic : 0 ≤ rawCount 0xFF 0x7F ∧ rawCount 0x00 0x80 < 0 := by decide
theorem witness_SetResolutionListing :
    ((8 < 9 ∨ 12 < 8) ∧ (13 < 9 ∨ 12 < 13)) ∧ (9 ≤ 9 ∧ 9 ≤ 12) ∧ (9 ≤ 12 ∧ 12 ≤ 12) ∧
    (Idle (holdsAB [true]) ∧ regCount (holdsAB [true]) ≤ (2 : Byte).toNat) ∧
    ((1 : Byte).toNat < regCount (holdsAB [true]) ∧ level (holdsAB [true]) 0 = true) ∧
    ((holdsAB [false]).registry[(1 : Byte).toNat]? = some addrB ∧ level (holdsAB [false]) 0 = false) :=
  ⟨by decide, by decide, by decide, ⟨idle_holdsAB _, by decide⟩, by decide, by decide⟩
theorem witness_ReadTemperatureRawChecksTheScratchpad :
    ∃ s, Idle s ∧ (0 : Byte).toNat < regCount s ∧ level s 0 = false ∧
      (∀ j < 9, ∀ k < 8, level s (1 + 8 * j + k) = (image.bytes.getD j 0).getLsbD k) ∧ image.valid = true :=
  ⟨holdsAB (false :: image.bytes.flatMap fun v => (List.range 8).map v.getLsbD), idle_holdsAB _,
   by decide, by decide, by decide +kernel, by decide +kernel⟩

end Sys2Proof.Tests
end

section
/-! PROOFS. Family 10_state: `OVR` (R29) and command-local state (R32). -/

namespace Sys2Proof.Machine

/-! ## The host's side of the state: no command and no small step touches it -/

/-- The fields only host accesses and the core's reset input write: `OVR` (R29), `REG_INDEX` (R30), the
parameter REG_DEPTH (R9), and what stands around the core. -/
def hostSide (s : State) : Bool × Byte × Nat × List HostInput × HostWord × Nat :=
  (s.ovr, s.regIndex, s.regDepth, s.inputs, s.hostData, s.freeReads)

theorem ovr_eq_of_hostSide {s t : State} (h : hostSide t = hostSide s) : t.ovr = s.ovr :=
  congrArg Prod.fst h

/-! The shared operations. -/

@[simp] theorem hostSide_driveLow (s : State) : hostSide (driveLow s) = hostSide s := rfl
@[simp] theorem hostSide_release (s : State) : hostSide (release s) = hostSide s := rfl
@[simp] theorem hostSide_wait (n : Nat) (s : State) : hostSide (wait n s) = hostSide s := rfl
@[simp] theorem hostSide_sample (s : State) : hostSide (sample s) = hostSide s := rfl
@[simp] theorem hostSide_resetPulse (s : State) : hostSide (resetPulse s) = hostSide s := rfl
@[simp] theorem hostSide_readSlot (s : State) : hostSide (readSlot s) = hostSide s := rfl

@[simp] theorem hostSide_writeSlot (b : Bool) (s : State) : hostSide (writeSlot b s) = hostSide s := by
  rw [writeSlot_eq]; rfl

@[simp] theorem hostSide_loadShift (v : Byte) (s : State) : hostSide (loadShift v s) = hostSide s := rfl
@[simp] theorem hostSide_shiftOut (s : State) : hostSide (shiftOut s) = hostSide s := rfl
@[simp] theorem hostSide_shiftIn (s : State) : hostSide (shiftIn s) = hostSide s := rfl
@[simp] theorem hostSide_accept (i : Instr) (s : State) : hostSide (accept i s) = hostSide s := rfl
@[simp] theorem hostSide_finish (s : State) : hostSide (finish s) = hostSide s := rfl
@[simp] theorem hostSide_raise (e : ErrorKind) (s : State) : hostSide (raise e s) = hostSide s := rfl
@[simp] theorem hostSide_goTo (p : Phase) (k : Nat) (s : State) : hostSide (goTo p k s) = hostSide s := rfl

@[simp] theorem hostSide_writeByte (v : Byte) (s : State) : hostSide (writeByte v s) = hostSide s := by
  rw [writeByte_eq]; rfl

@[simp] theorem hostSide_readBits (n : Nat) (s : State) : hostSide (readBits n s) = hostSide s := by
  induction n generalizing s with
  | zero => rfl
  | succ n ih => simp [readBits, ih]

@[simp] theorem hostSide_readByte (s : State) : hostSide (readByte s) = hostSide s := by
  simp [readByte]

/-! The operations of single commands. -/

@[simp] theorem hostSide_checkCrcOf (a : Address) (s : State) : hostSide (checkCrcOf a s) = hostSide s := rfl
@[simp] theorem hostSide_storeBit (s : State) : hostSide (storeBit s) = hostSide s := rfl
@[simp] theorem hostSide_storeByte (s : State) : hostSide (storeByte s) = hostSide s := rfl
@[simp] theorem hostSide_clearRom (s : State) : hostSide (clearRom s) = hostSide s := rfl
@[simp] theorem hostSide_startAddress (s : State) : hostSide (startAddress s) = hostSide s := rfl
@[simp] theorem hostSide_storeRomBit (s : State) : hostSide (storeRomBit s) = hostSide s := rfl
@[simp] theorem hostSide_nextPosition (s : State) : hostSide (nextPosition s) = hostSide s := rfl
@[simp] theorem hostSide_startSearch (s : State) : hostSide (startSearch s) = hostSide s := rfl
@[simp] theorem hostSide_startPositions (s : State) : hostSide (startPositions s) = hostSide s := rfl
@[simp] theorem hostSide_latchId (s : State) : hostSide (latchId s) = hostSide s := rfl
@[simp] theorem hostSide_latchCmp (s : State) : hostSide (latchCmp s) = hostSide s := rfl
@[simp] theorem hostSide_storeChosen (s : State) : hostSide (storeChosen s) = hostSide s := rfl

@[simp] theorem hostSide_recordZero (s : State) : hostSide (recordZero s) = hostSide s := by
  rw [recordZero_eq]; rfl

@[simp] theorem hostSide_readAddressBits (n : Nat) (s : State) :
    hostSide (readAddressBits n s) = hostSide s := by
  induction n generalizing s with
  | zero => rfl
  | succ n ih => simp [readAddressBits, ih]

@[simp] theorem hostSide_writeAddressBits (a : Address) (n : Nat) (s : State) :
    hostSide (writeAddressBits a n s) = hostSide s := by
  induction n generalizing s with
  | zero => rfl
  | succ n ih => simp [writeAddressBits, ih]

/-! Commands on their way. -/

/-- The state a command on its way has reached. -/
def Progress.state : Progress → State
  | .running s => s
  | .raised _ s => s

@[simp] theorem state_running (s : State) : (Progress.running s).state = s := rfl
@[simp] theorem state_raised (e : ErrorKind) (s : State) : (Progress.raised e s).state = s := rfl

@[simp] theorem hostSide_settle (p : Progress) : hostSide p.settle = hostSide p.state := by
  cases p <;> rfl

theorem hostSide_andThen {f : State → Progress} (hf : ∀ u, hostSide (f u).state = hostSide u)
    (p : Progress) : hostSide (p.andThen f).state = hostSide p.state := by
  cases p with
  | running s => exact hf s
  | raised e s => rfl

@[simp] theorem hostSide_resetOrRaise (s : State) : hostSide (resetOrRaise s).state = hostSide s := by
  rw [resetOrRaise_eq]
  split <;> simp

@[simp] theorem hostSide_checkAddress (s : State) : hostSide (checkAddress s).state = hostSide s := by
  unfold checkAddress
  dsimp only
  split <;> rfl

@[simp] theorem hostSide_appendCandidate (s : State) :
    hostSide (appendCandidate s).state = hostSide s := by
  rcases appendCandidate_cases s with ⟨_, h⟩ | ⟨_, h⟩ <;> rw [h] <;> rfl

@[simp] theorem hostSide_searchPosition (s : State) :
    hostSide (searchPosition s).state = hostSide s := by
  unfold searchPosition
  dsimp only
  split <;> simp [discoveryPair]

@[simp] theorem hostSide_searchPositions (n : Nat) (s : State) :
    hostSide (searchPositions n s).state = hostSide s := by
  induction n generalizing s with
  | zero => rfl
  | succ n ih => rw [searchPositions, hostSide_andThen ih, hostSide_searchPosition]

@[simp] theorem hostSide_searchPass (s : State) : hostSide (searchPass s).state = hostSide s := by
  have hrest (u : State) : hostSide ((searchPositions 64 (startPositions
      (writeByte wireSearchRom u))).andThen appendCandidate).state = hostSide u := by
    rw [hostSide_andThen hostSide_appendCandidate, hostSide_searchPositions, hostSide_startPositions,
      hostSide_writeByte]
  rw [searchPass, hostSide_andThen hrest, hostSide_resetOrRaise]

@[simp] theorem hostSide_searchPasses (free : Nat) (s : State) :
    hostSide (searchPasses free s).state = hostSide s := by
  induction free generalizing s with
  | zero => exact hostSide_searchPass s
  | succ free ih =>
    rw [searchPasses, hostSide_andThen, hostSide_searchPass]
    intro u
    split
    · rfl
    · exact ih u

/-! Whole commands. -/

theorem execReadAddress_hostSide {s t : State} (h : execReadAddress s = .next t) :
    hostSide t = hostSide s := by
  have hrest (u : State) : hostSide (checkAddress (readAddressBits 64 (startAddress
      (writeByte wireReadRom u)))).state = hostSide u := by
    rw [hostSide_checkAddress, hostSide_readAddressBits, hostSide_startAddress, hostSide_writeByte]
  rw [← Host.Outcome.next.inj h, hostSide_settle, hostSide_andThen hrest, hostSide_resetOrRaise,
    hostSide_clearRom, hostSide_accept]

theorem execSelect_hostSide {index : Byte} {s t : State} (h : execSelect index s = .next t) :
    hostSide t = hostSide s := by
  have hrest (a : Address) (u : State) : hostSide (Progress.running (writeAddressBits a 64
      (startAddress (writeByte wireMatchRom u)))).state = hostSide u := by
    rw [state_running, hostSide_writeAddressBits, hostSide_startAddress, hostSide_writeByte]
  rw [← Host.Outcome.next.inj h]
  split
  · rfl
  · rename_i a _
    rw [hostSide_settle, hostSide_andThen (hrest a), hostSide_resetOrRaise, hostSide_accept]

theorem execCrcAddr_hostSide {index : Byte} {s t : State} (h : execCrcAddr index s = .next t) :
    hostSide t = hostSide s := by
  cases h
  split <;> rfl

/-- No command touches the host's side (R29, R30: host accesses and the core reset alone do). -/
theorem exec_hostSide {i : Instr} {s t : State} (h : exec i s = .next t) : hostSide t = hostSide s := by
  cases i with
  | reset => cases h; simp
  | writeBit operand => cases h; rw [hostSide_finish, hostSide_writeSlot, hostSide_accept]
  | readBit => cases h; rw [hostSide_finish, hostSide_storeBit, hostSide_readSlot, hostSide_accept]
  | writeByte v => cases h; rw [hostSide_finish, hostSide_writeByte, hostSide_accept]
  | readByte => cases h; rw [hostSide_finish, hostSide_storeByte, hostSide_readByte, hostSide_accept]
  | search =>
    cases h
    rw [hostSide_settle, hostSide_searchPasses, hostSide_startSearch, hostSide_accept]
  | readAddress => exact execReadAddress_hostSide h
  | select index => exact execSelect_hostSide h
  | crcInit => cases h; rfl
  | crcByte v => cases h; rfl
  | crcCheck v => cases h; rfl
  | crcAddr index => exact execCrcAddr_hostSide h

/-! Small steps. -/

theorem beginCommand_hostSide (i : Instr) (s : State) : hostSide (beginCommand i s) = hostSide s := by
  cases i <;> rfl

@[simp] theorem hostSide_afterPulse (s : State) : hostSide (afterPulse s) = hostSide s := by
  unfold afterPulse
  split
  · simp
  · split <;> simp

@[simp] theorem hostSide_afterCmdBit (s : State) : hostSide (afterCmdBit s) = hostSide s := by
  unfold afterCmdBit
  dsimp only
  split
  · split <;> simp
  · simp

@[simp] theorem hostSide_afterSearchPosition (s : State) :
    hostSide (afterSearchPosition s) = hostSide s := by
  have hc := hostSide_appendCandidate (storeChosen s)
  unfold afterSearchPosition
  dsimp only
  split
  · split <;> rename_i hu <;> rw [hu] at hc
    · simpa using hc
    · split <;> simpa using hc
  · simp

@[simp] theorem hostSide_afterSlot (s : State) : hostSide (afterSlot s) = hostSide s := by
  unfold afterSlot
  dsimp only
  split
  case h_1 => simp
  case h_2 => simp
  case h_3 => simp
  case h_4 => simp
  case h_5 => split <;> simp
  case h_6 => split <;> simp
  case h_7 => split <;> simp
  case h_8 => split <;> simp
  case h_9 => simp

@[simp] theorem hostSide_afterSearchPrim (k : Nat) (s : State) :
    hostSide (afterSearchPrim k s) = hostSide s := by
  unfold afterSearchPrim
  dsimp only
  split
  · simp
  · split
    · split <;> simp
    · split <;> simp

@[simp] theorem hostSide_afterPrim (s : State) : hostSide (afterPrim s) = hostSide s := by
  unfold afterPrim
  split
  · simp
  · split <;> simp

/-- No small step of the sequencer touches the host's side. -/
theorem seqTick_hostSide {s t : State} (h : seqTick s = .next t) : hostSide t = hostSide s := by
  rcases seqTick_next h with ⟨_, rfl⟩ | ⟨n, _, hw⟩ | ⟨_, rfl⟩ | ⟨_, rfl⟩ | ⟨_, _, rfl⟩
  · rfl
  · rcases hw with ⟨_, rfl⟩ | ⟨_, rfl⟩ | ⟨_, rfl⟩
    · rfl
    · simp
    · rfl
  · simp
  · simp
  · simp

theorem seqRun_hostSide {n : Nat} {s t : State} (h : seqRun n s = .next t) : hostSide t = hostSide s :=
  seqRun_keeps (P := fun u => hostSide u = hostSide s)
    (fun _ _ hu hstep => (seqTick_hostSide hstep).trans hu) n s t rfl h

/-! ## `OVR` (R29) -/

/-- The next step is a `CMD` write to a busy core (R65). -/
def DropsCommand (s : State) : Prop :=
  s.busy = true ∧ ∃ v rest, s.inputs = .write 0x00 4 v :: rest ∨ s.inputs = .post v :: rest

/-- The next step is a core reset, or a `STATUS` write with bit 1 set (R63, R271). -/
def ClearsOvr (s : State) : Prop :=
  ∃ v rest, s.inputs = .coreReset :: rest ∨ (s.inputs = .write 0x04 4 v :: rest ∧ v.getLsbD 1 = true)

theorem hostWrite_cmd (v : HostWord) (s : State) : hostWrite 0x00 4 v s = issue v s := rfl

theorem hostWrite_status (v : HostWord) (s : State) :
    hostWrite 0x04 4 v s = .next (writeStatus v s) := rfl

theorem writeStatus_ovr (v : HostWord) (s : State) :
    (writeStatus v s).ovr = if v.getLsbD 1 = true then false else s.ovr :=
  apply_ite State.ovr ..

/-- Command issue sets `OVR` when it drops the word, and leaves it alone otherwise. -/
theorem issue_ovr {v : HostWord} {s t : State} (h : issue v s = .next t) :
    t.ovr = (s.ovr || s.busy) := by
  rcases issue_cases v s with ⟨hb, he⟩ | ⟨hb, _, he⟩ | ⟨hb, i, _, he⟩
  · cases he.symm.trans h
    simp [dropCommand, hb]
  · cases he.symm.trans h
    simp [illegalWord, hb]
  · simp [ovr_eq_of_hostSide (exec_hostSide (he.symm.trans h)), hb]

theorem postCommand_ovr {v : HostWord} {s t : State} (h : postCommand v s = .next t) :
    t.ovr = (s.ovr || s.busy) := by
  rcases postCommand_cases v s with ⟨hb, he⟩ | ⟨hb, _, he⟩ | ⟨hb, i, _, ⟨_, he⟩ | ⟨_, he⟩⟩
  · cases he.symm.trans h
    simp [dropCommand, hb]
  · cases he.symm.trans h
    simp [illegalWord, hb]
  · simp [ovr_eq_of_hostSide (exec_hostSide (he.symm.trans h)), hb]
  · cases he.symm.trans h
    simp [ovr_eq_of_hostSide (beginCommand_hostSide i s), hb]

theorem statusWord_ovr (s : State) : (statusWord s).getLsbD 1 = s.ovr :=
  (BitVec.getLsbD_append (y := BitVec.ofBool s.busy)).trans
    ((BitVec.getLsbD_append (y := BitVec.ofBool s.ovr)).trans (by simp))

theorem hostRead_status {s t : State} (h : hostRead 0x04 4 s = .next t) :
    t.hostData = statusWord s := by
  cases h; rfl

theorem step_of_dropsCommand {s t : State} (hd : DropsCommand s) (h : step s = .next t) :
    t.ovr = true := by
  obtain ⟨hb, v, rest, hi | hi⟩ := hd <;> rw [step_input hi] at h
  · rw [issue_ovr ((hostWrite_cmd v _).symm.trans h)]; simp [takeInput, hb]
  · rw [postCommand_ovr h]; simp [takeInput, hb]

theorem step_of_clearsOvr {s t : State} (hc : ClearsOvr s) (h : step s = .next t) : t.ovr = false := by
  obtain ⟨v, rest, hi | ⟨hi, hv⟩⟩ := hc <;> rw [step_input hi] at h
  · cases h; rfl
  · cases (hostWrite_status v _).symm.trans h
    rw [writeStatus_ovr, if_pos hv]

/-- What a host write does to `OVR`, whatever its offset. -/
theorem hostWrite_ovr {addr n : Nat} {v : HostWord} {s t : State} (h : hostWrite addr n v s = .next t) :
    t.ovr = s.ovr ∨ (s.busy = true ∧ addr = 0x00 ∧ n = 4) ∨
      (addr = 0x04 ∧ n = 4 ∧ v.getLsbD 1 = true) := by
  rcases hostWrite_next h with ⟨ha, hn, hi⟩ | ⟨ha, hn, rfl⟩ | ⟨_, _, rfl⟩ | rfl
  · cases hb : s.busy with
    | true => exact .inr (.inl ⟨rfl, ha, hn⟩)
    | false => exact .inl (by simp [issue_ovr hi, hb])
  · by_cases hv : v.getLsbD 1 = true
    · exact .inr (.inr ⟨ha, hn, hv⟩)
    · exact .inl (by rw [writeStatus_ovr, if_neg hv])
  · exact .inl rfl
  · exact .inl rfl

/-- Every step keeps `OVR`, but for the dropped `CMD` write and the two that clear it. -/
theorem step_ovr_cases {s t : State} (h : step s = .next t) :
    t.ovr = s.ovr ∨ DropsCommand s ∨ ClearsOvr s := by
  cases hi : s.inputs with
  | nil =>
    rw [step_noInput hi] at h
    exact .inl (ovr_eq_of_hostSide (seqTick_hostSide h))
  | cons x rest =>
    rw [step_input hi] at h
    cases x with
    | write addr n v =>
      rcases hostWrite_ovr h with ho | ⟨hb, rfl, rfl⟩ | ⟨rfl, rfl, hv⟩
      · exact .inl ho
      · exact .inr (.inl ⟨hb, v, rest, .inl hi⟩)
      · exact .inr (.inr ⟨v, rest, .inr ⟨hi, hv⟩⟩)
    | read addr n =>
      obtain ⟨r, _, rfl⟩ := hostRead_next h
      exact .inl rfl
    | post v =>
      cases hb : s.busy with
      | true => exact .inr (.inl ⟨hb, v, rest, .inr hi⟩)
      | false => exact .inl (by simp [postCommand_ovr h, takeInput, hb])
    | run n =>
      have ho : t.ovr = (takeInput rest s).ovr := ovr_eq_of_hostSide (seqRun_hostSide h)
      exact .inl ho
    | coreReset => exact .inr (.inr ⟨0, rest, .inl hi⟩)

/-- Settles O9: the dropped `CMD` write and the two clearing inputs, and by `step_ovr_cases` nothing
else. -/
theorem ovrIsStickyAndSetOnlyByADroppedWrite : Obligations.OvrIsStickyAndSetOnlyByADroppedWrite := by
  unfold Obligations.OvrIsStickyAndSetOnlyByADroppedWrite
  refine ⟨fun s t v rest hb hi h => step_of_dropsCommand ⟨hb, v, rest, hi⟩ h,
    fun s t rest hi h => step_of_clearsOvr ⟨0, rest, .inl hi⟩ h,
    fun s t v rest hi hv h => step_of_clearsOvr ⟨v, rest, .inr ⟨hi, hv⟩⟩ h,
    fun s t h => by rw [hostRead_status h, statusWord_ovr], fun s t h => ⟨fun hs ht => ?_, fun hs ht => ?_⟩⟩
  · rcases step_ovr_cases h with he | hd | hc
    · simp [he, hs] at ht
    · exact hd
    · simp [step_of_clearsOvr hc h] at ht
  · rcases step_ovr_cases h with he | hd | hc
    · simp [he, hs] at ht
    · simp [step_of_dropsCommand hd h] at ht
    · exact hc

/-! ## Command-local state (R32) -/

/-! What a state shows without its command-local part, read through `forgetLocal`. -/

theorem level_forgetLocal (s : State) (k : Nat) : level (forgetLocal s) k = level s k := rfl

theorem lookup_forgetLocal (index : Byte) (s : State) : lookup index (forgetLocal s) = lookup index s := rfl

theorem level_eq_of_forgetLocal {s s' : State} (h : forgetLocal s = forgetLocal s') (k : Nat) :
    level s k = level s' k := by
  rw [← level_forgetLocal s, h, level_forgetLocal]

theorem lookup_eq_of_forgetLocal (index : Byte) {s s' : State} (h : forgetLocal s = forgetLocal s') :
    lookup index s = lookup index s' := by
  rw [← lookup_forgetLocal index s, h, lookup_forgetLocal]

/-! Operations that `forgetLocal` passes through: what they do to the rest of the state is a function of
the rest of the state. -/

@[simp] theorem forgetLocal_accept (i : Instr) (s : State) :
    forgetLocal (accept i s) = accept i (forgetLocal s) := rfl
@[simp] theorem forgetLocal_finish (s : State) : forgetLocal (finish s) = finish (forgetLocal s) := rfl
@[simp] theorem forgetLocal_raise (e : ErrorKind) (s : State) :
    forgetLocal (raise e s) = raise e (forgetLocal s) := rfl
@[simp] theorem forgetLocal_clearErr (s : State) : forgetLocal (clearErr s) = clearErr (forgetLocal s) := rfl
@[simp] theorem forgetLocal_checkCrcOf (a : Address) (s : State) :
    forgetLocal (checkCrcOf a s) = checkCrcOf a (forgetLocal s) := rfl

@[simp] theorem forgetLocal_writeSlot (b : Bool) (s : State) :
    forgetLocal (writeSlot b s) = afterBus 0 [.w b] (forgetLocal s) := by
  rw [writeSlot_eq]; rfl

@[simp] theorem forgetLocal_readSlot (s : State) :
    forgetLocal (readSlot s) = afterBus 1 [.r (level (forgetLocal s) 0)] (forgetLocal s) := by
  rw [readSlot_eq]; rfl

@[simp] theorem forgetLocal_resetPulse (s : State) :
    forgetLocal (resetPulse s) = afterBus 1 [.rst (level (forgetLocal s) 0)] (forgetLocal s) := by
  rw [resetPulse_eq]; rfl

@[simp] theorem forgetLocal_writeByte (v : Byte) (s : State) :
    forgetLocal (writeByte v s) = afterBus 0 (byteSlots v) (forgetLocal s) := by
  rw [writeByte_eq]; rfl

/-! Operations that write command-local state only. -/

@[simp] theorem forgetLocal_loadShift (v : Byte) (s : State) :
    forgetLocal (loadShift v s) = forgetLocal s := rfl
@[simp] theorem forgetLocal_shiftIn (s : State) : forgetLocal (shiftIn s) = forgetLocal s := rfl
@[simp] theorem forgetLocal_clearRom (s : State) : forgetLocal (clearRom s) = forgetLocal s := rfl
@[simp] theorem forgetLocal_startAddress (s : State) : forgetLocal (startAddress s) = forgetLocal s := rfl
@[simp] theorem forgetLocal_storeRomBit (s : State) : forgetLocal (storeRomBit s) = forgetLocal s := rfl

/-- The 64 write slots of a SELECT send its entry from bit 0 on, wherever `BITPOS` stood (R37, R209). -/
theorem forgetLocal_writeAddressBits (a : Address) (s : State) (ht : s.timer = 0) (hd : s.dqOe = false) :
    forgetLocal (writeAddressBits a 64 (startAddress s)) = afterBus 0 (addressSlots a) (forgetLocal s) := by
  rw [writeAddressBits_eq a 64 (startAddress s) ht hd]
  simp [startAddress, addressSlots, forgetLocal, afterBus]

/-! Loops that read command-local state: they agree when the fields they read agree. -/

/-- A byte read reads `SHIFT`, which `loadShift` has set (R164). -/
theorem readBits_agree (n : Nat) {s s' : State} (h : forgetLocal s = forgetLocal s')
    (hshift : s.shift = s'.shift) :
    forgetLocal (readBits n s) = forgetLocal (readBits n s') ∧
      (readBits n s).shift = (readBits n s').shift := by
  induction n generalizing s s' with
  | zero => exact ⟨h, hshift⟩
  | succ n ih =>
    refine ih (by simp [h]) ?_
    simp [shiftIn, readSlot_eq, hshift, level_eq_of_forgetLocal h]

/-- The 64 read slots of a READ_ADDRESS read `ROM` and `BITPOS`, which `clearRom` and `startAddress` have
set (R200). -/
theorem readAddressBits_agree (n : Nat) {s s' : State} (h : forgetLocal s = forgetLocal s')
    (hrom : s.rom = s'.rom) (hpos : s.bitPos = s'.bitPos) :
    forgetLocal (readAddressBits n s) = forgetLocal (readAddressBits n s') ∧
      (readAddressBits n s).rom = (readAddressBits n s').rom := by
  induction n generalizing s s' with
  | zero => exact ⟨h, hrom⟩
  | succ n ih =>
    refine ih (by simp [h]) ?_ ?_
    · simp [storeRomBit, readSlot_eq, hrom, hpos, level_eq_of_forgetLocal h]
    · simp [storeRomBit, readSlot_eq, hpos]

theorem checkAddress_agree {s s' : State} (h : forgetLocal s = forgetLocal s') (hrom : s.rom = s'.rom) :
    forgetLocal (checkAddress s).settle = forgetLocal (checkAddress s').settle := by
  have hset (u : State) : forgetLocal (checkAddress u).settle =
      if validAddress u.rom then finish { checkCrcOf u.rom (forgetLocal u) with registry := [u.rom] }
      else raise .addressCrcMismatch (checkCrcOf u.rom (forgetLocal u)) := by
    unfold checkAddress
    cases hv : validAddress u.rom <;> simp [checkCrcOf, hv] <;> rfl
  rw [hset, hset, h, hrom]

/-- READ_ADDRESS after its reset pulse (R200). -/
theorem readRom_agree {s s' : State} (h : forgetLocal s = forgetLocal s') (hrom : s.rom = s'.rom) :
    forgetLocal (checkAddress (readAddressBits 64 (startAddress (writeByte wireReadRom s)))).settle =
      forgetLocal (checkAddress (readAddressBits 64 (startAddress (writeByte wireReadRom s')))).settle := by
  have hstart : forgetLocal (startAddress (writeByte wireReadRom s)) =
      forgetLocal (startAddress (writeByte wireReadRom s')) := by
    rw [forgetLocal_startAddress, forgetLocal_startAddress, forgetLocal_writeByte, forgetLocal_writeByte, h]
  have hrom' : (startAddress (writeByte wireReadRom s)).rom = (startAddress (writeByte wireReadRom s')).rom := by
    rw [writeByte_eq, writeByte_eq]; exact hrom
  obtain ⟨hbits, hread⟩ := readAddressBits_agree 64 hstart hrom' rfl
  exact checkAddress_agree hbits hread

/-! SEARCH: a pass that finds somebody sets or receives every command-local field it reads. -/

/-- The state without the pair a position reads afresh (R175). -/
def forgetPair (s : State) : State := { s with idBit := false, cmpBit := false }

theorem searchPosition_forgetPair (s : State) : searchPosition (forgetPair s) = searchPosition s := by
  have hp : discoveryPair (forgetPair s) = discoveryPair s := by
    rw [discoveryPair_eq, discoveryPair_eq]; rfl
  rw [searchPosition, searchPosition, hp]

theorem searchPositions_forgetPair (n : Nat) (s : State) :
    searchPositions (n + 1) (forgetPair s) = searchPositions (n + 1) s := by
  rw [searchPositions, searchPositions, searchPosition_forgetPair]

/-- A pass at the start of its 64 positions, of what was before it: only `ROM` and `LASTFORK` (R172) are
taken over from command-local state. -/
def passStart (rom : Address) (lastFork : Nat) (u : State) : State :=
  { afterBus 0 (byteSlots wireSearchRom) (afterBus 1 [.rst (level u 0)] u) with
    rom := rom, lastFork := lastFork, shift := 0, bitIdx := 8, latch := level u 0 }

theorem forgetPair_startPositions (s : State) :
    forgetPair (startPositions (writeByte wireSearchRom (resetPulse s))) =
      passStart s.rom s.lastFork (forgetLocal s) := by
  rw [writeByte_eq, resetPulse_eq]; rfl

/-- Nobody answers the pulse: the pass and the command end there (R173). -/
theorem searchPass_of_silence {s : State} (h0 : level s 0 = true) :
    searchPass s = .raised .noPresence (resetPulse s) := by
  simp [searchPass, resetOrRaise_eq, h0]

/-- Somebody answers: the pass depends on `ROM`, `LASTFORK` and what is not command-local. -/
theorem searchPass_of_presence {s : State} (h0 : level s 0 = false) :
    searchPass s =
      (searchPositions 64 (passStart s.rom s.lastFork (forgetLocal s))).andThen appendCandidate := by
  rw [← forgetPair_startPositions, searchPositions_forgetPair]
  simp [searchPass, resetOrRaise_eq, h0]

theorem searchPasses_of_silence (free : Nat) {s : State} (h0 : level s 0 = true) :
    searchPasses free s = .raised .noPresence (resetPulse s) := by
  cases free <;> simp [searchPasses, searchPass_of_silence h0]

theorem searchPasses_congr (free : Nat) {s s' : State} (h : searchPass s = searchPass s') :
    searchPasses free s = searchPasses free s' := by
  cases free <;> simp [searchPasses, h]

theorem searchPasses_agree (free : Nat) {s s' : State} (h : forgetLocal s = forgetLocal s')
    (hrom : s.rom = s'.rom) (hfork : s.lastFork = s'.lastFork) :
    forgetLocal (searchPasses free s).settle = forgetLocal (searchPasses free s').settle := by
  have hl := level_eq_of_forgetLocal h 0
  cases h0 : level s 0 with
  | true =>
    rw [searchPasses_of_silence free h0, searchPasses_of_silence free (hl ▸ h0)]
    simp [h]
  | false =>
    have hp : searchPass s = searchPass s' := by
      rw [searchPass_of_presence h0, searchPass_of_presence (hl ▸ h0), h, hrom, hfork]
    rw [searchPasses_congr free hp]

/-! Whole commands. -/

/-- Two outcomes that show the same next state: what R32 says of a command run from two states. -/
def EndAlike (o o' : Host.Outcome State Fault Refusal) : Prop :=
  ∀ t t', o = .next t → o' = .next t' → forgetLocal t = forgetLocal t'

theorem endAlike_next {t t' : State} (h : forgetLocal t = forgetLocal t') :
    EndAlike (.next t) (.next t') := by
  intro u u' hu hu'
  cases hu
  cases hu'
  exact h

/-- A command that begins with a reset pulse: nobody answers and it ends alike, or somebody answers and it
goes on as `f` says. -/
theorem resetOrRaise_agree {s s' : State} {f : State → Progress} (h : forgetLocal s = forgetLocal s')
    (hf : forgetLocal (f (resetPulse s)).settle = forgetLocal (f (resetPulse s')).settle) :
    forgetLocal ((resetOrRaise s).andThen f).settle = forgetLocal ((resetOrRaise s').andThen f).settle := by
  rw [resetOrRaise_eq, resetOrRaise_eq, level_eq_of_forgetLocal h]
  cases level s' 0 with
  | true => simp [h]
  | false => simpa using hf

theorem execReset_endAlike {s s' : State} (h : forgetLocal s = forgetLocal s') :
    EndAlike (execReset s) (execReset s') := by
  refine endAlike_next ?_
  have ha : forgetLocal (accept .reset s) = forgetLocal (accept .reset s') := by simp [h]
  rw [resetOrRaise_eq, resetOrRaise_eq, level_eq_of_forgetLocal ha]
  split <;> simp [h]

theorem execWriteBit_endAlike (operand : Byte) {s s' : State} (h : forgetLocal s = forgetLocal s') :
    EndAlike (execWriteBit operand s) (execWriteBit operand s') :=
  endAlike_next (by simp [h])

theorem forgetLocal_storeBit (s : State) :
    forgetLocal (storeBit s) = { forgetLocal s with data := if s.latch then 0x01 else 0x00 } := rfl

theorem execReadBit_endAlike {s s' : State} (h : forgetLocal s = forgetLocal s') :
    EndAlike (execReadBit s) (execReadBit s') := by
  have hrest : forgetLocal (readSlot (accept .readBit s)) = forgetLocal (readSlot (accept .readBit s')) := by
    simp [h]
  have hlatch : (readSlot (accept .readBit s)).latch = (readSlot (accept .readBit s')).latch := by
    have ha : forgetLocal (accept .readBit s) = forgetLocal (accept .readBit s') := by simp [h]
    simp only [readSlot_eq, level_eq_of_forgetLocal ha]
  refine endAlike_next ?_
  rw [forgetLocal_finish, forgetLocal_finish, forgetLocal_storeBit, forgetLocal_storeBit, hrest, hlatch]

theorem execWriteByte_endAlike (v : Byte) {s s' : State} (h : forgetLocal s = forgetLocal s') :
    EndAlike (execWriteByte v s) (execWriteByte v s') :=
  endAlike_next (by simp [h])

theorem forgetLocal_storeByte (s : State) :
    forgetLocal (storeByte s) = { forgetLocal s with data := s.shift } := rfl

theorem execReadByte_endAlike {s s' : State} (h : forgetLocal s = forgetLocal s') :
    EndAlike (execReadByte s) (execReadByte s') := by
  obtain ⟨hrest, hshift⟩ := readBits_agree 8 (s := loadShift 0 (accept .readByte s))
    (s' := loadShift 0 (accept .readByte s')) (by simp [h]) rfl
  exact endAlike_next (by simp only [forgetLocal_finish, forgetLocal_storeByte, readByte, hrest, hshift])

theorem execSearch_endAlike {s s' : State} (h : forgetLocal s = forgetLocal s') :
    EndAlike (execSearch s) (execSearch s') := by
  have hdepth : s.regDepth = s'.regDepth := by simpa using congrArg State.regDepth h
  have hstart : forgetLocal (startSearch (accept .search s)) =
      forgetLocal (startSearch (accept .search s')) :=
    congrArg (fun u => startSearch (accept .search u)) h
  refine endAlike_next ?_
  rw [hdepth]
  exact searchPasses_agree _ hstart rfl rfl

theorem execReadAddress_endAlike {s s' : State} (h : forgetLocal s = forgetLocal s') :
    EndAlike (execReadAddress s) (execReadAddress s') := by
  have hstart : forgetLocal (clearRom (accept .readAddress s)) =
      forgetLocal (clearRom (accept .readAddress s')) := by simp [h]
  exact endAlike_next (resetOrRaise_agree hstart (readRom_agree (by simp [h]) rfl))

theorem execSelect_endAlike (index : Byte) {s s' : State} (h : forgetLocal s = forgetLocal s') :
    EndAlike (execSelect index s) (execSelect index s') := by
  refine endAlike_next ?_
  rw [lookup_eq_of_forgetLocal index h]
  cases lookup index s' with
  | none => simp [h]
  | some a =>
    refine resetOrRaise_agree (by simp [h]) ?_
    simp only [settle_running, forgetLocal_finish]
    rw [forgetLocal_writeAddressBits, forgetLocal_writeAddressBits]
    · simp [h]
    all_goals simp [writeByte_eq]

theorem execCrcInit_endAlike {s s' : State} (h : forgetLocal s = forgetLocal s') :
    EndAlike (execCrcInit s) (execCrcInit s') :=
  endAlike_next (congrArg (fun u => { clearErr u with crcAcc := 0, crcValid := false }) h)

theorem execCrcByte_endAlike (v : Byte) {s s' : State} (h : forgetLocal s = forgetLocal s') :
    EndAlike (execCrcByte v s) (execCrcByte v s') :=
  endAlike_next (congrArg (fun u => { clearErr u with crcAcc := crcUpdate u.crcAcc v }) h)

theorem execCrcCheck_endAlike (v : Byte) {s s' : State} (h : forgetLocal s = forgetLocal s') :
    EndAlike (execCrcCheck v s) (execCrcCheck v s') :=
  endAlike_next (congrArg (fun u => { clearErr u with crcValid := u.crcAcc == v }) h)

theorem execCrcAddr_endAlike (index : Byte) {s s' : State} (h : forgetLocal s = forgetLocal s') :
    EndAlike (execCrcAddr index s) (execCrcAddr index s') := by
  refine endAlike_next ?_
  rw [lookup_eq_of_forgetLocal index h]
  cases lookup index s' <;> simp [h]

/-- No command reads what an earlier one left in command-local state (R32). -/
theorem exec_endAlike (i : Instr) {s s' : State} (h : forgetLocal s = forgetLocal s') :
    EndAlike (exec i s) (exec i s') := by
  cases i with
  | reset => exact execReset_endAlike h
  | writeBit operand => exact execWriteBit_endAlike operand h
  | readBit => exact execReadBit_endAlike h
  | writeByte v => exact execWriteByte_endAlike v h
  | readByte => exact execReadByte_endAlike h
  | search => exact execSearch_endAlike h
  | readAddress => exact execReadAddress_endAlike h
  | select index => exact execSelect_endAlike index h
  | crcInit => exact execCrcInit_endAlike h
  | crcByte v => exact execCrcByte_endAlike v h
  | crcCheck v => exact execCrcCheck_endAlike v h
  | crcAddr index => exact execCrcAddr_endAlike index h

/-- Settles O43, command by command: `exec_endAlike`. -/
theorem commandLocalStateIsNeverRead : Obligations.CommandLocalStateIsNeverRead := by
  unfold Obligations.CommandLocalStateIsNeverRead
  intro i s s' t t' h ht ht'
  exact exec_endAlike i h t t' ht ht'

end Sys2Proof.Machine
end

section
/-! PROOFS. Family 20_memory: the `CMD` write to a busy core (R65) and the shape of a host access (R66). -/

namespace Sys2Proof.Machine

/-! ## A busy core drops the word, in both forms of the write (R65) -/

theorem issue_of_busy {s : State} (v : HostWord) (hb : s.busy = true) :
    issue v s = .next (dropCommand s) :=
  if_pos hb

theorem postCommand_of_busy {s : State} (v : HostWord) (hb : s.busy = true) :
    postCommand v s = .next (dropCommand s) :=
  if_pos hb

/-- Settles O8: offset 0 is command issue (`hostWrite_cmd`), and both forms of it test `BUSY` before they
look at the word. -/
theorem commandWriteWhileBusyIsDropped : Obligations.CommandWriteWhileBusyIsDropped := by
  unfold Obligations.CommandWriteWhileBusyIsDropped
  intro s v hb
  exact ⟨(hostWrite_cmd v s).trans (issue_of_busy v hb), postCommand_of_busy v hb⟩

/-! ## A host access is one aligned 32-bit word, or refused (R66) -/

theorem alignedWord_eq_true_iff {addr n : Nat} : alignedWord addr n = true ↔ addr % 4 = 0 ∧ n = 4 := by
  simp [alignedWord]

theorem hostRead_of_not_alignedWord {addr n : Nat} (s : State) (ha : ¬ alignedWord addr n = true) :
    hostRead addr n s = .refused .accessNotAlignedWord :=
  if_neg ha

theorem hostWrite_of_not_alignedWord {addr n : Nat} (v : HostWord) (s : State)
    (ha : ¬ alignedWord addr n = true) : hostWrite addr n v s = .refused .accessNotAlignedWord :=
  if_neg ha

/-- Settles O14: a wrong address or a wrong width fails the one check both accesses make first. -/
theorem onlyAlignedWordsAreAccepted : Obligations.OnlyAlignedWordsAreAccepted := by
  unfold Obligations.OnlyAlignedWordsAreAccepted
  intro s addr n v hbad
  have ha : ¬ alignedWord addr n = true := by
    rw [alignedWord_eq_true_iff]
    rintro ⟨haddr, hn⟩
    rcases hbad with hmis | hwidth
    · exact hmis haddr
    · exact hwidth hn
  exact ⟨hostRead_of_not_alignedWord s ha, hostWrite_of_not_alignedWord v s ha⟩

end Sys2Proof.Machine
end

section
/-! PROOFS. Family 30_encoding: the words of the commands (R90, R91) and the opcode map (R92). -/

namespace Sys2Proof

/-! ## A command word is its opcode byte and its operand byte (R90) -/

@[simp] theorem opcodeField_append (opcode operand : Byte) : opcodeField (opcode ++ operand) = opcode :=
  BitVec.extractLsb'_append_eq_left

@[simp] theorem operandField_append (opcode operand : Byte) : operandField (opcode ++ operand) = operand :=
  BitVec.extractLsb'_append_eq_right

@[simp] theorem opcodeField_and (w w' : CommandWord) :
    opcodeField (w &&& w') = opcodeField w &&& opcodeField w' :=
  BitVec.extractLsb'_and

@[simp] theorem operandField_and (w w' : CommandWord) :
    operandField (w &&& w') = operandField w &&& operandField w' :=
  BitVec.extractLsb'_and

theorem opcodeField_append_operandField (w : CommandWord) : opcodeField w ++ operandField w = w :=
  (BitVec.extractLsb'_append_extractLsb'_eq_extractLsb' (start₁ := 0) (len₁ := 8) rfl).trans
    BitVec.extractLsb'_eq_self

theorem word_eq_iff {w w' : CommandWord} :
    w = w' ↔ opcodeField w = opcodeField w' ∧ operandField w = operandField w' := by
  refine ⟨by rintro rfl; exact ⟨rfl, rfl⟩, fun ⟨hopcode, hoperand⟩ => ?_⟩
  rw [← opcodeField_append_operandField w, hopcode, hoperand, opcodeField_append_operandField]

@[simp] theorem opcodeField_encode (i : Instr) : opcodeField (encode i) = i.opcode :=
  opcodeField_append _ _

@[simp] theorem operandField_encode (i : Instr) : operandField (encode i) = i.operand :=
  operandField_append _ _

theorem encode_eq_iff {i : Instr} {w : CommandWord} :
    encode i = w ↔ i.opcode = opcodeField w ∧ i.operand = operandField w := by
  rw [word_eq_iff, opcodeField_encode, operandField_encode]

/-! ## The decoder reads exactly the encodings of well-formed commands (R90 to R93) -/

theorem noOperand_eq_ok_iff {operand : Byte} {i j : Instr} :
    noOperand operand i = .ok j ↔ operand = 0 ∧ i = j := by
  unfold noOperand
  split <;> simp_all

theorem bitOperandOnly_eq_ok_iff {operand : Byte} {j : Instr} :
    bitOperandOnly operand = .ok j ↔ operand >>> 1 = 0 ∧ .writeBit operand = j := by
  unfold bitOperandOnly
  split <;> simp_all

theorem decode_encode {i : Instr} (hi : i.wellFormed = true) : decode (encode i) = .ok i := by
  unfold decode
  rw [opcodeField_encode, operandField_encode]
  cases i with
  | writeBit operand => exact if_pos (eq_of_beq hi)
  | _ => rfl

theorem wellFormed_and_encode_of_decode {w : CommandWord} {i : Instr} (h : decode w = .ok i) :
    i.wellFormed = true ∧ encode i = w := by
  rw [encode_eq_iff]
  unfold decode at h
  split at h
  -- RESET, READ_BIT, READ_BYTE, SEARCH, READ_ADDRESS, CRC_INIT
  case h_1 hop | h_3 hop | h_5 hop | h_6 hop | h_7 hop | h_9 hop =>
    obtain ⟨hzero, rfl⟩ := noOperand_eq_ok_iff.mp h
    exact ⟨rfl, BitVec.eq_of_toNat_eq hop.symm, hzero.symm⟩
  -- WRITE_BIT
  case h_2 hop =>
    obtain ⟨hbit, rfl⟩ := bitOperandOnly_eq_ok_iff.mp h
    exact ⟨beq_of_eq hbit, BitVec.eq_of_toNat_eq hop.symm, rfl⟩
  -- WRITE_BYTE, SELECT, CRC_BYTE, CRC_CHECK, CRC_ADDR
  case h_4 hop | h_8 hop | h_10 hop | h_11 hop | h_12 hop =>
    cases h
    exact ⟨rfl, BitVec.eq_of_toNat_eq hop.symm, rfl⟩
  case h_13 => cases h

theorem decode_eq_ok_iff {w : CommandWord} {i : Instr} :
    decode w = .ok i ↔ i.wellFormed = true ∧ encode i = w :=
  ⟨wellFormed_and_encode_of_decode, fun ⟨hi, hw⟩ => hw ▸ decode_encode hi⟩

/-! ## The opcode map, row by row (R92) -/

/-- The operand bits that R90 and R91 fix to 0 for a command: all of them, all but one, or none. -/
def Instr.operandMask : Instr → Byte
  | .reset | .readBit | .readByte | .search | .readAddress | .crcInit => 0xFF
  | .writeBit _ => 0xFE
  | .writeByte _ | .select _ | .crcByte _ | .crcCheck _ | .crcAddr _ => 0x00

/-- The row of a command: its opcode is fixed, and the operand bits of `operandMask` are 0. -/
def Instr.row (i : Instr) : OpcodeRow := ⟨i.mnemonic, i.opcode ++ 0#8, BitVec.allOnes 8 ++ i.operandMask⟩

theorem opcodeRows_eq_rows : opcodeRows =
    [Instr.reset.row, (Instr.writeBit 0).row, Instr.readBit.row, (Instr.writeByte 0).row,
     Instr.readByte.row, Instr.search.row, Instr.readAddress.row, (Instr.select 0).row,
     Instr.crcInit.row, (Instr.crcByte 0).row, (Instr.crcCheck 0).row, (Instr.crcAddr 0).row] := by
  decide

/-- The rows stand in the order of their opcodes, from 0x01 on. -/
theorem opcodeRows_getElem?_opcode (i : Instr) : opcodeRows[i.opcode.toNat - 1]? = some i.row := by
  rw [opcodeRows_eq_rows]
  cases i <;> rfl

theorem row_mem_opcodeRows (i : Instr) : i.row ∈ opcodeRows :=
  List.mem_of_getElem? (opcodeRows_getElem?_opcode i)

theorem row_selectedBy_iff {i : Instr} {w : CommandWord} :
    i.row.selectedBy w = true ↔ opcodeField w = i.opcode ∧ operandField w &&& i.operandMask = 0 := by
  rw [OpcodeRow.selectedBy, beq_iff_eq, word_eq_iff]
  simp only [Instr.row, opcodeField_and, operandField_and, opcodeField_append, operandField_append,
    BitVec.and_allOnes, BitVec.ofNat_eq_ofNat]

theorem shiftRight_one_eq_zero_iff : ∀ v : Byte, v >>> 1 = 0 ↔ v &&& 0xFE = 0 := by
  decide

theorem wellFormed_iff_and_operandMask {i : Instr} :
    i.wellFormed = true ↔ i.operand &&& i.operandMask = 0 := by
  cases i with
  | writeBit operand => exact beq_iff_eq.trans (shiftRight_one_eq_zero_iff operand)
  | _ => simp [Instr.wellFormed, Instr.operand, Instr.operandMask]

/-- Every row of the map is the row of a command, and of one with the operand asked for where the row
admits it. -/
theorem exists_row_eq {r : OpcodeRow} (hr : r ∈ opcodeRows) (operand : Byte) :
    ∃ i : Instr, i.row = r ∧ (operand &&& i.operandMask = 0 → i.operand = operand) := by
  have hnone (h : operand &&& BitVec.allOnes 8 = 0) : 0 = operand := h.symm.trans BitVec.and_allOnes
  simp only [opcodeRows_eq_rows, List.mem_cons, List.not_mem_nil, or_false] at hr
  rcases hr with rfl | rfl | rfl | rfl | rfl | rfl | rfl | rfl | rfl | rfl | rfl | rfl
  · exact ⟨.reset, rfl, hnone⟩
  · exact ⟨.writeBit operand, rfl, fun _ => rfl⟩
  · exact ⟨.readBit, rfl, hnone⟩
  · exact ⟨.writeByte operand, rfl, fun _ => rfl⟩
  · exact ⟨.readByte, rfl, hnone⟩
  · exact ⟨.search, rfl, hnone⟩
  · exact ⟨.readAddress, rfl, hnone⟩
  · exact ⟨.select operand, rfl, fun _ => rfl⟩
  · exact ⟨.crcInit, rfl, hnone⟩
  · exact ⟨.crcByte operand, rfl, fun _ => rfl⟩
  · exact ⟨.crcCheck operand, rfl, fun _ => rfl⟩
  · exact ⟨.crcAddr operand, rfl, fun _ => rfl⟩

theorem row_selectedBy_of_decode {w : CommandWord} {i : Instr} (h : decode w = .ok i) :
    i.row.selectedBy w = true := by
  obtain ⟨hwf, rfl⟩ := decode_eq_ok_iff.mp h
  rw [row_selectedBy_iff, opcodeField_encode, operandField_encode]
  exact ⟨rfl, wellFormed_iff_and_operandMask.mp hwf⟩

/-- A word selects a row of the map exactly when it decodes to a command of that row. -/
theorem selectedBy_iff_decode {r : OpcodeRow} (hr : r ∈ opcodeRows) {w : CommandWord} :
    r.selectedBy w = true ↔ ∃ i, decode w = .ok i ∧ i.row = r := by
  constructor
  · intro hsel
    obtain ⟨i, rfl, hoperand⟩ := exists_row_eq hr (operandField w)
    obtain ⟨hop, hmask⟩ := row_selectedBy_iff.mp hsel
    have hi : i.operand = operandField w := hoperand hmask
    have hwf : i.wellFormed = true := wellFormed_iff_and_operandMask.mpr (hi ▸ hmask)
    exact ⟨i, decode_eq_ok_iff.mpr ⟨hwf, encode_eq_iff.mpr ⟨hop.symm, hi⟩⟩, rfl⟩
  · rintro ⟨i, hd, rfl⟩
    exact row_selectedBy_of_decode hd

/-- Settles O3: the three parts are the two directions of `selectedBy_iff_decode`, and that a word decodes
to one command only. -/
theorem decodeFollowsTheOpcodeMap : Obligations.DecodeFollowsTheOpcodeMap := by
  unfold Obligations.DecodeFollowsTheOpcodeMap
  refine ⟨fun w i hd => ?_, fun w r hr hsel => ?_, fun w r hr r' hr' hsel hsel' => ?_⟩
  · exact ⟨i.row, row_mem_opcodeRows i, row_selectedBy_of_decode hd, rfl⟩
  · obtain ⟨i, hd, rfl⟩ := (selectedBy_iff_decode hr).mp hsel
    exact ⟨i, hd, rfl⟩
  · obtain ⟨i, hd, rfl⟩ := (selectedBy_iff_decode hr).mp hsel
    obtain ⟨j, hd', rfl⟩ := (selectedBy_iff_decode hr').mp hsel'
    cases hd.symm.trans hd'
    rfl

end Sys2Proof
end

section
/-! PROOFS. Family 40_crc8: the update step of the engine (R121 to R123, R127) and its four
commands (R130 to R133). -/

namespace Sys2Proof

/-! ## A command's word is its opcode's word with the operand in the low byte (R90) -/

theorem append_eq_or_setWidth (opcode operand : Byte) :
    opcode ++ operand = (opcode ++ 0#8) ||| operand.setWidth 16 := by
  apply BitVec.eq_of_getLsbD_eq
  intro k hk
  simp only [BitVec.getLsbD_or, BitVec.getLsbD_append, BitVec.getLsbD_setWidth, hk]
  by_cases h : k < 8
  · simp [h]
  · simp [h, BitVec.getLsbD_of_ge operand k (by omega)]

theorem encode_eq_or_operand (i : Instr) {word : CommandWord} (h : i.opcode ++ 0#8 = word) :
    encode i = word ||| i.operand.setWidth 16 := by
  rw [encode, append_eq_or_setWidth, h]

end Sys2Proof

namespace Sys2Proof.Machine

/-! ## The update step reads the accumulator and the byte through their xor (R127 (e)) -/

/-- A fed bit counts as bit 0 of something added to the accumulator; the bits above it move down one
place and wait. -/
theorem crcBit_xor_false (acc rest : Byte) :
    crcBit (acc ^^^ rest) false = crcBit acc (rest.getLsbD 0) ^^^ (rest >>> 1) := by
  unfold crcBit
  rw [BitVec.getLsbD_xor, Bool.xor_false, BitVec.ushiftRight_xor_distrib]
  split
  · ac_rfl
  · rfl

/-- Zeros fed to the sum do what the first `n` bits of the byte do to the accumulator, and the bits not
yet fed still stand in the sum. -/
theorem foldl_crcBit_false_xor (acc byte : Byte) (n : Nat) :
    (List.range n).foldl (fun a _ => crcBit a false) (acc ^^^ byte) =
      (List.range n).foldl (fun a k => crcBit a (byte.getLsbD k)) acc ^^^ (byte >>> n) := by
  induction n with
  | zero => simp
  | succ n ih =>
    rw [List.range_succ, List.foldl_append, List.foldl_append, ih]
    simp [crcBit_xor_false, BitVec.shiftRight_add]

theorem crcUpdate_eq_xor_zero (acc byte : Byte) : crcUpdate acc byte = crcUpdate (acc ^^^ byte) 0 := by
  calc crcUpdate acc byte
      = crcUpdate acc byte ^^^ (byte >>> 8) := by
        rw [BitVec.ushiftRight_eq_zero (by decide), BitVec.xor_zero]
    _ = (List.range 8).foldl (fun a _ => crcBit a false) (acc ^^^ byte) :=
        (foldl_crcBit_false_xor acc byte 8).symm
    _ = crcUpdate (acc ^^^ byte) 0 := by simp [crcUpdate]

/-- R127 (c): a byte equal to the accumulator clears it. -/
@[simp] theorem crcUpdate_self (acc : Byte) : crcUpdate acc acc = 0 := by
  rw [crcUpdate_eq_xor_zero, BitVec.xor_self]
  decide

theorem crcUpdateTable_eq_xor_zero (acc byte : Byte) :
    crcUpdateTable acc byte = crcUpdateTable (acc ^^^ byte) 0 := by
  simp [crcUpdateTable]

theorem crcUpdateTable_zero_right : ∀ x : Byte, crcUpdateTable x 0 = crcUpdate x 0 := by
  decide +kernel

/-- R123: the table form is the bit-serial form. -/
theorem crcUpdateTable_eq_crcUpdate (acc byte : Byte) : crcUpdateTable acc byte = crcUpdate acc byte := by
  rw [crcUpdateTable_eq_xor_zero, crcUpdate_eq_xor_zero, crcUpdateTable_zero_right]

/-- R127 (d): any number of zero bytes has the CRC 0. -/
theorem crc8_replicate_zero (n : Nat) : crc8 (List.replicate n 0) = 0 := by
  induction n with
  | zero => rfl
  | succ n ih => rwa [List.replicate_succ, crc8, List.foldl_cons, crcUpdate_self]

/-! ## What the four commands leave (R130 to R133) -/

theorem exec_crcInit (s : State) :
    exec .crcInit s = .next { s with err := 0, crcAcc := 0, crcValid := false } := rfl

theorem exec_crcByte (v : Byte) (s : State) :
    exec (.crcByte v) s = .next { s with err := 0, crcAcc := crcUpdate s.crcAcc v } := rfl

theorem exec_crcCheck (v : Byte) (s : State) :
    exec (.crcCheck v) s = .next { s with err := 0, crcValid := decide (s.crcAcc = v) } := rfl

theorem exec_crcAddr_of_lookup_eq_some {index : Byte} {s : State} {a : Address}
    (h : lookup index s = some a) : exec (.crcAddr index) s = .next { s with
      err := 0, crcAcc := crc8 (lowBytes a), crcValid := validAddress a } := by
  show execCrcAddr index s = _
  rw [execCrcAddr, h]
  rfl

/-- An entry whose CRC is `c`, which it also holds: CRC_ADDR leaves `c` and valid. -/
theorem exec_crcAddr_of_crc_eq {index : Byte} {s : State} {a : Address} {c : Byte}
    (h : lookup index s = some a) (hcrc : crc8 (lowBytes a) = c) (hstored : crcByteOf a = c) :
    exec (.crcAddr index) s = .next { s with err := 0, crcAcc := c, crcValid := true } := by
  rw [exec_crcAddr_of_lookup_eq_some h, validAddress, crcValidFor, hcrc, hstored, beq_self_eq_true]

theorem exec_crcAddr_of_lookup_eq_none {index : Byte} {s : State} (h : lookup index s = none) :
    exec (.crcAddr index) s = .next (raise .badIndex (clearErr s)) := by
  show execCrcAddr index s = _
  rw [execCrcAddr, h]

/-- On an idle core an error raised at acceptance changes `ERR` only: `BUSY` and `SEQ` stand where
`raise` puts them (R246). -/
theorem raise_clearErr_of_idle (e : ErrorKind) {s : State} (h : Idle s) :
    raise e (clearErr s) = { s with err := e.code } := by
  simp [raise, clearErr, ← h.busy, ← h.seq]

/-! ## Commands one after the other (R115) -/

@[simp] theorem runCommands_nil (s : State) : runCommands [] s = .next s := rfl

theorem runCommands_cons {i : Instr} {s t : State} (rest : List Instr) (h : exec i s = .next t) :
    runCommands (i :: rest) s = runCommands rest t := by
  rw [runCommands, h]

/-- The example of R131 and R132: `0x28` fed to the cleared accumulator. -/
theorem crcUpdate_zero_0x28 : crcUpdate 0 0x28 = 0xE1 := by
  decide

/-! ## The obligations -/

/-- Settles O19: `exec_crcInit`. -/
theorem crcInitClearsTheEngine : Obligations.CrcInitClearsTheEngine := by
  unfold Obligations.CrcInitClearsTheEngine
  exact ⟨by decide, exec_crcInit⟩

/-- Settles O20: the model's step is the bit-serial form, which is the table form
(`crcUpdateTable_eq_crcUpdate`); both corner cases are `crcUpdate_self`. -/
theorem crcByteUpdatesTheAccumulator : Obligations.CrcByteUpdatesTheAccumulator := by
  unfold Obligations.CrcByteUpdatesTheAccumulator
  refine ⟨fun v => encode_eq_or_operand (.crcByte v) (by simp [Instr.opcode]),
    fun s v => ?_, fun s => ?_, fun s hs => ?_, fun s => ?_⟩
  · rw [exec_crcByte, crcUpdateTable_eq_crcUpdate]
  · rw [exec_crcByte, crcUpdate_self]
  · rw [exec_crcByte, hs, crcUpdate_self, ← hs]
  · rw [runCommands_cons _ (exec_crcInit s), runCommands_cons _ (exec_crcByte _ _), runCommands_nil,
      crcUpdate_zero_0x28]

/-- Settles O21: the flag is the comparison, of 0 straight after CRC_INIT and of `0xE1` in the example. -/
theorem crcCheckComparesTheAccumulator : Obligations.CrcCheckComparesTheAccumulator := by
  unfold Obligations.CrcCheckComparesTheAccumulator
  refine ⟨fun v => encode_eq_or_operand (.crcCheck v) (by simp [Instr.opcode]),
    fun s v => exec_crcCheck v s, fun s v => ?_, fun s => ?_⟩
  · rw [runCommands_cons _ (exec_crcInit s), runCommands_cons _ (exec_crcCheck _ _), runCommands_nil]
    simp only [eq_comm]
  · rw [runCommands_cons _ (exec_crcInit s), runCommands_cons _ (exec_crcByte _ _),
      runCommands_cons _ (exec_crcCheck _ _), runCommands_nil, crcUpdate_zero_0x28, decide_eq_true rfl]

/-- Settles O22: R133's list of bytes is `lowBytes`, and an index names no entry exactly when it is at or
beyond `REG_COUNT`. -/
theorem crcAddrChecksAnEntry : Obligations.CrcAddrChecksAnEntry := by
  unfold Obligations.CrcAddrChecksAnEntry
  refine ⟨fun i => encode_eq_or_operand (.crcAddr i) (by simp [Instr.opcode]),
    fun s i a h => ?_, fun s i h => ?_, fun s h => ?_, fun s i hidle hcount => ?_⟩
  · exact exec_crcAddr_of_lookup_eq_some h
  · exact exec_crcAddr_of_crc_eq h (crc8_replicate_zero 7) rfl
  · exact exec_crcAddr_of_crc_eq (index := 0) h (by decide +kernel) rfl
  · rw [exec_crcAddr_of_lookup_eq_none ((lookup_eq_none_iff i s).mpr hcount), raise_clearErr_of_idle _ hidle,
      ErrorKind.code]

end Sys2Proof.Machine
end

section
/-! PROOFS. Family 41_bit_transport: RESET (R140 to R142), WRITE_BIT (R143 to R145) and READ_BIT
(R147, R148). -/

namespace Sys2Proof

/-- R91, R93: the word of a bit operand with a bit above bit 0 is illegal. -/
theorem decode_encode_writeBit_of_wide {operand : Byte} (h : operand >>> 1 ≠ 0) :
    decode (encode (.writeBit operand)) = .error .bitOperandTooWide := by
  unfold decode
  rw [opcodeField_encode, operandField_encode]
  exact if_neg h

theorem encode_writeBit (operand : Byte) : encode (.writeBit operand) = 0x0200 ||| operand.setWidth 16 :=
  encode_eq_or_operand (.writeBit operand) (by simp [Instr.opcode])

end Sys2Proof

namespace Sys2Proof.Machine

/-! ## The events of one slot, newest first (R141, R144, R145, R148) -/

theorem afterSlots_rst (b : Bool) (before : List PinEvent) :
    afterSlots [.rst b] before = [.W 410, .S b, .W 70, .Z, .W 480, .L] ++ before := rfl

theorem afterSlots_w (b : Bool) (before : List PinEvent) :
    afterSlots [.w b] before =
      (if b then [.W 60, .Z, .W 5, .L] else [.W 5, .Z, .W 60, .L]) ++ before := by
  cases b <;> rfl

theorem afterSlots_r (b : Bool) (before : List PinEvent) :
    afterSlots [.r b] before = [.W 60, .S b, .W 8, .Z, .W 3, .L] ++ before := rfl

/-! ## What the three commands leave, command-local state apart -/

/-- R140: both ends of RESET come after the whole pulse, and differ in `ERR` only. -/
theorem exec_reset_forgetLocal (s : State) : ∃ t, exec .reset s = .next t ∧
    forgetLocal t = forgetLocal (finish { afterBus 1 [.rst (level s 0)] s with
      err := if level s 0 then 1 else 0 }) := by
  have hlevel : level (accept .reset s) 0 = level s 0 := level_of_line_eq rfl rfl 0
  refine ⟨_, rfl, ?_⟩
  rw [resetOrRaise_eq, resetPulse_eq, hlevel]
  cases level s 0 with
  | true => rfl
  | false => rfl

theorem exec_writeBit_forgetLocal (operand : Byte) (s : State) : ∃ t, exec (.writeBit operand) s = .next t ∧
    forgetLocal t = forgetLocal (finish { afterBus 0 [.w (bitOperand operand)] s with err := 0 }) := by
  refine ⟨_, rfl, ?_⟩
  rw [writeSlot_eq]
  rfl

theorem exec_readBit_forgetLocal (s : State) : ∃ t, exec .readBit s = .next t ∧
    forgetLocal t = forgetLocal (finish { afterBus 1 [.r (level s 0)] s with
      err := 0, data := if level s 0 then 0x01 else 0x00 }) := by
  have hlevel : level (accept .readBit s) 0 = level s 0 := level_of_line_eq rfl rfl 0
  refine ⟨_, rfl, ?_⟩
  rw [readSlot_eq, hlevel]
  rfl

/-! ## The obligations -/

/-- Settles O24: `exec_reset_forgetLocal`, with the pulse's events written out. -/
theorem resetSendsAPulseAndTestsPresence : Obligations.ResetSendsAPulseAndTestsPresence := by
  unfold Obligations.ResetSendsAPulseAndTestsPresence
  refine ⟨by decide, fun s => ?_⟩
  rw [← afterSlots_rst]
  exact exec_reset_forgetLocal s

/-- Settles O25: the word is decoded to the end the operand's upper bits ask for, and
`exec_writeBit_forgetLocal` gives the command's effect. -/
theorem writeBitSendsOneSlot : Obligations.WriteBitSendsOneSlot := by
  unfold Obligations.WriteBitSendsOneSlot
  refine ⟨fun operand _ => encode_writeBit operand, fun operand hwide => ?_, fun s operand => ?_⟩
  · rw [← encode_writeBit, decode_encode_writeBit_of_wide hwide]
  · rw [← afterSlots_w]
    exact exec_writeBit_forgetLocal operand s

/-- Settles O26: `exec_readBit_forgetLocal`, with the read slot's events written out. -/
theorem readBitStoresTheSample : Obligations.ReadBitStoresTheSample := by
  unfold Obligations.ReadBitStoresTheSample
  refine ⟨by decide, fun s => ?_⟩
  rw [← afterSlots_r]
  exact exec_readBit_forgetLocal s

end Sys2Proof.Machine
end

section
/-! PROOFS. Family 42_byte_transport: WRITE_BYTE (R160, R161). -/

namespace Sys2Proof.Machine

/-- The slots of a byte, bit 0 first (R161), written out. -/
theorem byteSlots_eq_getElem (v : Byte) :
    byteSlots v = [.w v[0], .w v[1], .w v[2], .w v[3], .w v[4], .w v[5], .w v[6], .w v[7]] := rfl

/-- What WRITE_BYTE leaves, command-local state apart. -/
theorem exec_writeByte_forgetLocal (v : Byte) (s : State) : ∃ t, exec (.writeByte v) s = .next t ∧
    forgetLocal t = forgetLocal (finish { afterBus 0 (byteSlots v) s with err := 0 }) := by
  refine ⟨_, rfl, ?_⟩
  rw [writeByte_eq]
  rfl

/-- Settles O27: `exec_writeByte_forgetLocal`, with the byte's eight slots written out. -/
theorem writeByteSendsEightSlots : Obligations.WriteByteSendsEightSlots := by
  unfold Obligations.WriteByteSendsEightSlots
  refine ⟨fun v => encode_eq_or_operand (.writeByte v) (by simp [Instr.opcode]), fun s v => ?_⟩
  rw [← byteSlots_eq_getElem]
  exact exec_writeByte_forgetLocal v s

end Sys2Proof.Machine
end

section
/-! PROOFS. Family 44_addressing: READ_ADDRESS (R200 to R204) and SELECT (R206 to R209). -/

namespace Sys2Proof.Machine

/-! ## The reset pulse both commands begin with (R142) -/

/-- Nobody answers: the command ends after the pulse, whatever it would have done next. -/
theorem forgetLocal_settle_of_silence {s : State} (f : State → Progress) (h0 : level s 0 = true) :
    forgetLocal ((resetOrRaise s).andThen f).settle =
      raise .noPresence (afterBus 1 [.rst true] (forgetLocal s)) := by
  simp [resetOrRaise_eq, level_forgetLocal, h0]

theorem resetOrRaise_andThen_of_presence {s : State} (f : State → Progress) (h0 : level s 0 = false) :
    (resetOrRaise s).andThen f = f (resetPulse s) := by
  simp [resetOrRaise_eq, h0]

theorem forgetLocal_resetPulse_of_presence {s : State} (h0 : level s 0 = false) :
    forgetLocal (resetPulse s) = afterBus 1 [.rst false] (forgetLocal s) := by
  rw [forgetLocal_resetPulse, level_forgetLocal, h0]

/-- The answers left once the pulse has taken the first. -/
theorem level_resetPulse (s : State) (k : Nat) : level (resetPulse s) k = level s (1 + k) := by
  rw [← level_forgetLocal, forgetLocal_resetPulse, level_afterBus, level_forgetLocal]

/-! ## READ_ADDRESS after its pulse: the Read-ROM byte, the 64 read slots, the check (R200 to R203) -/

/-- The 64 read slots that spell an address, bit 0 first (R71, R201). -/
def addressReadSlots (a : Address) : List Slot := (List.range 64).map fun p => .r (bitAt a p)

theorem readSlotsOf_eq_addressReadSlots {s : State} {a : Address} (h : ∀ p < 64, level s p = bitAt a p) :
    readSlotsOf 64 s = addressReadSlots a := by
  rw [readSlotsOf, levels, List.map_map, addressReadSlots]
  exact List.map_congr_left fun p hp => congrArg Slot.r (h p (List.mem_range.mp hp))

/-- The 64 read slots overwrite all of `ROM`, whatever it held. -/
theorem readAddressBits_startAddress_rom {s : State} {a : Address} (h : ∀ p < 64, level s p = bitAt a p) :
    (readAddressBits 64 (startAddress s)).rom = a := by
  have hpos : (startAddress s).bitPos = 0 := rfl
  refine bitAt_ext fun p hp => ?_
  rw [readAddressBits_rom 64 _ (by omega), if_pos (by omega), hpos, Nat.sub_zero]
  exact h p hp

theorem forgetLocal_readAddressBits {s : State} {a : Address} (ht : s.timer = 0) (hd : s.dqOe = false)
    (h : ∀ p < 64, level s p = bitAt a p) :
    forgetLocal (readAddressBits 64 (startAddress s)) =
      afterBus 64 (addressReadSlots a) (forgetLocal s) := by
  rw [← readSlotsOf_eq_addressReadSlots h, readAddressBits_eq 64 (startAddress s) ht hd]
  rfl

theorem writeByte_timer (v : Byte) (s : State) : (writeByte v s).timer = 0 := by
  rw [writeByte_eq]

theorem writeByte_dqOe (v : Byte) (s : State) : (writeByte v s).dqOe = false := by
  rw [writeByte_eq, afterBus_dqOe]

/-- A command byte takes no sample. -/
theorem level_writeByte (v : Byte) (s : State) (k : Nat) : level (writeByte v s) k = level s k := by
  rw [← level_forgetLocal, forgetLocal_writeByte, level_afterBus, Nat.zero_add, level_forgetLocal]

/-- What the check of `a` leaves of `s` (R202, R203): its two ends differ in `ERR` and the registry. -/
def afterCheck (a : Address) (s : State) : State :=
  finish { checkCrcOf a s with
    err := if crc8 (lowBytes a) = byteOf a 7 then s.err else ErrorKind.addressCrcMismatch.code
    registry := if crc8 (lowBytes a) = byteOf a 7 then [a] else s.registry }

theorem forgetLocal_settle_checkAddress (s : State) :
    forgetLocal (checkAddress s).settle = afterCheck s.rom (forgetLocal s) := by
  by_cases hcrc : crc8 (lowBytes s.rom) = byteOf s.rom 7
  · have hv : (checkCrcOf s.rom s).crcValid = true := decide_eq_true hcrc
    rw [checkAddress, if_pos hv, afterCheck, if_pos hcrc, if_pos hcrc]
    rfl
  · have hv : ¬(checkCrcOf s.rom s).crcValid = true := fun hv => hcrc (of_decide_eq_true hv)
    rw [checkAddress, if_neg hv, afterCheck, if_neg hcrc, if_neg hcrc]
    rfl

/-- Read-ROM, the 64 slots and the check, when the answers spell `a`. -/
theorem forgetLocal_settle_readRom {s : State} {a : Address} (h : ∀ p < 64, level s p = bitAt a p) :
    forgetLocal (checkAddress (readAddressBits 64 (startAddress (writeByte wireReadRom s)))).settle =
      afterCheck a (afterBus 64 (byteSlots wireReadRom ++ addressReadSlots a) (forgetLocal s)) := by
  have hspell : ∀ p < 64, level (writeByte wireReadRom s) p = bitAt a p := fun p hp => by
    rw [level_writeByte, h p hp]
  rw [forgetLocal_settle_checkAddress, readAddressBits_startAddress_rom hspell,
    forgetLocal_readAddressBits (writeByte_timer _ s) (writeByte_dqOe _ s) hspell, forgetLocal_writeByte,
    afterBus_afterBus, Nat.zero_add]

/-! ## What the two commands leave, command-local state apart -/

/-- READ_ADDRESS with nobody there (R142, R200). -/
theorem exec_readAddress_of_silence {s : State} (h0 : level s 0 = true) :
    ∃ t, exec .readAddress s = .next t ∧ forgetLocal t =
      forgetLocal (raise .noPresence (afterBus 1 [.rst true] s)) := by
  have hlevel : level (clearRom (accept .readAddress s)) 0 = true := h0
  refine ⟨_, rfl, ?_⟩
  rw [forgetLocal_settle_of_silence _ hlevel]
  rfl

/-- READ_ADDRESS with somebody there, the 64 answers after the presence sample spelling `a`. -/
theorem exec_readAddress_of_presence {s : State} {a : Address} (h0 : level s 0 = false)
    (h : ∀ p < 64, level s (1 + p) = bitAt a p) :
    ∃ t, exec .readAddress s = .next t ∧ forgetLocal t = forgetLocal (afterCheck a
      { afterBus 65 ([.rst false] ++ byteSlots wireReadRom ++ addressReadSlots a) s with err := 0 }) := by
  have hlevel : level (clearRom (accept .readAddress s)) 0 = false := h0
  have hspell : ∀ p < 64, level (resetPulse (clearRom (accept .readAddress s))) p = bitAt a p := fun p hp =>
    (level_resetPulse _ p).trans (h p hp)
  refine ⟨_, rfl, ?_⟩
  rw [resetOrRaise_andThen_of_presence _ hlevel, forgetLocal_settle_readRom hspell,
    forgetLocal_resetPulse_of_presence hlevel, afterBus_afterBus, ← List.append_assoc]
  rfl

/-- SELECT of a registry entry, from its acceptance on (R206). -/
theorem exec_select_of_lookup_eq_some {index : Byte} {s : State} {a : Address} (h : lookup index s = some a) :
    exec (.select index) s = .next ((resetOrRaise (accept (.select index) s)).andThen fun t =>
      .running (writeAddressBits a 64 (startAddress (writeByte wireMatchRom t)))).settle := by
  show execSelect index s = _
  rw [execSelect, h]

theorem exec_select_of_lookup_eq_none {index : Byte} {s : State} (h : lookup index s = none) :
    exec (.select index) s = .next (raise .badIndex (clearErr s)) := by
  show execSelect index s = _
  rw [execSelect, h]

/-- SELECT with nobody there (R142, R208). -/
theorem exec_select_of_silence {index : Byte} {s : State} {a : Address} (h : lookup index s = some a)
    (h0 : level s 0 = true) :
    ∃ t, exec (.select index) s = .next t ∧ forgetLocal t =
      forgetLocal (raise .noPresence (afterBus 1 [.rst true] s)) := by
  have hlevel : level (accept (.select index) s) 0 = true := h0
  refine ⟨_, exec_select_of_lookup_eq_some h, ?_⟩
  rw [forgetLocal_settle_of_silence _ hlevel]
  rfl

/-- SELECT with somebody there: Match-ROM and the entry (R207, R209). -/
theorem exec_select_of_presence {index : Byte} {s : State} {a : Address} (h : lookup index s = some a)
    (h0 : level s 0 = false) :
    ∃ t, exec (.select index) s = .next t ∧ forgetLocal t = forgetLocal (finish {
      afterBus 1 ([.rst false] ++ byteSlots wireMatchRom ++ addressSlots a) s with err := 0 }) := by
  have hlevel : level (accept (.select index) s) 0 = false := h0
  refine ⟨_, exec_select_of_lookup_eq_some h, ?_⟩
  rw [resetOrRaise_andThen_of_presence _ hlevel, settle_running, forgetLocal_finish,
    forgetLocal_writeAddressBits _ _ (writeByte_timer _ _) (writeByte_dqOe _ _),
    forgetLocal_writeByte, forgetLocal_resetPulse_of_presence hlevel, afterBus_afterBus, afterBus_afterBus]
  rfl

/-! ## The obligations -/

/-- Settles O30: the presence sample separates NoPresence from the read, whose two ends
`exec_readAddress_of_presence` gives. -/
theorem readAddressReadsAndChecks : Obligations.ReadAddressReadsAndChecks := by
  unfold Obligations.ReadAddressReadsAndChecks
  exact ⟨by decide, fun s h0 => exec_readAddress_of_silence h0,
    fun s a h0 h => exec_readAddress_of_presence h0 h⟩

/-- Settles O31: an index names no entry exactly when it is at or beyond `REG_COUNT`, and the presence
sample separates the two ends of an entry that is there. -/
theorem selectSendsTheEntry : Obligations.SelectSendsTheEntry := by
  unfold Obligations.SelectSendsTheEntry
  refine ⟨fun i => encode_eq_or_operand (.select i) (by simp [Instr.opcode]),
    fun s i hidle hcount => ?_, fun s i hcount h0 => ?_, fun s i a h h0 => exec_select_of_presence h h0⟩
  · rw [exec_select_of_lookup_eq_none ((lookup_eq_none_iff i s).mpr hcount), raise_clearErr_of_idle _ hidle,
      ErrorKind.code]
  · obtain ⟨a, ha⟩ := Option.isSome_iff_exists.mp ((lookup_isSome_iff i s).mpr hcount)
    exact exec_select_of_silence ha h0

end Sys2Proof.Machine
end

section
/-! PROOFS. Family 60_exceptions: a `CMD` write whose word is no command (R243). -/

namespace Sys2Proof.Machine

/-! ## An illegal word at an idle core, in both forms of the write (R243) -/

theorem issue_of_decode_eq_error {s : State} {v : HostWord} {e : IllegalWord} (hb : s.busy = false)
    (hd : decode (v.setWidth 16) = .error e) : issue v s = .next (illegalWord s) := by
  simp [issue, hb, hd]

theorem postCommand_of_decode_eq_error {s : State} {v : HostWord} {e : IllegalWord} (hb : s.busy = false)
    (hd : decode (v.setWidth 16) = .error e) : postCommand v s = .next (illegalWord s) := by
  simp [postCommand, hb, hd]

/-- The answer to an illegal word raises IllegalCommand, code 4, at an idle core. -/
theorem illegalWord_of_idle {s : State} (h : Idle s) : illegalWord s = { s with err := 4 } :=
  raise_clearErr_of_idle .illegalCommand h

/-- Settles O7: with `BUSY` at 0 both forms of the write answer a word that is no command with `illegalWord`,
which on an idle core changes `ERR` only (`illegalWord_of_idle`). -/
theorem illegalWordOnlySetsErr : Obligations.IllegalWordOnlySetsErr := by
  unfold Obligations.IllegalWordOnlySetsErr
  intro s v e hidle hd
  rw [hostWrite_cmd, issue_of_decode_eq_error hidle.busy hd, postCommand_of_decode_eq_error hidle.busy hd,
    illegalWord_of_idle hidle]
  exact ⟨rfl, rfl⟩

end Sys2Proof.Machine
end

section
/-! PROOFS. Family other, encodings: a command word has one reading and one writing (R90 to R93). -/

namespace Sys2Proof

/-- Settles O1: `decode_encode`. -/
theorem decodeOfEncodeIsTheCommand : Obligations.DecodeOfEncodeIsTheCommand := by
  unfold Obligations.DecodeOfEncodeIsTheCommand
  exact fun _ => decode_encode

/-- Settles O2: `wellFormed_and_encode_of_decode`. -/
theorem decodedWordIsItsEncoding : Obligations.DecodedWordIsItsEncoding := by
  unfold Obligations.DecodedWordIsItsEncoding
  exact fun _ _ => wellFormed_and_encode_of_decode

/-! ## The illegal words (R93) -/

theorem noOperand_eq_error_iff {operand : Byte} {i : Instr} {e : IllegalWord} :
    noOperand operand i = .error e ↔ operand ≠ 0 ∧ .operandNotZero = e := by
  unfold noOperand
  split <;> simp_all

theorem bitOperandOnly_eq_error_iff {operand : Byte} {e : IllegalWord} :
    bitOperandOnly operand = .error e ↔ operand >>> 1 ≠ 0 ∧ .bitOperandTooWide = e := by
  unfold bitOperandOnly
  split <;> simp_all

/-- The reason a word is illegal, by its opcode: unknown, one that takes no operand, or WRITE_BIT's. -/
theorem decode_append_eq_error_iff {opcode operand : Byte} {e : IllegalWord} :
    decode (opcode ++ operand) = .error e ↔
      (opcode.toNat = 0 ∨ 13 ≤ opcode.toNat) ∧ .unknownOpcode = e ∨
      opcode.toNat ∈ [1, 3, 5, 6, 7, 9] ∧ operand ≠ 0 ∧ .operandNotZero = e ∨
      opcode.toNat = 2 ∧ operand >>> 1 ≠ 0 ∧ .bitOperandTooWide = e := by
  unfold decode
  rw [opcodeField_append, operandField_append]
  split
  -- RESET, READ_BIT, READ_BYTE, SEARCH, READ_ADDRESS, CRC_INIT
  case h_1 hop | h_3 hop | h_5 hop | h_6 hop | h_7 hop | h_9 hop =>
    simp [hop, noOperand_eq_error_iff]
  -- WRITE_BIT
  case h_2 hop => simp [hop, bitOperandOnly_eq_error_iff]
  -- WRITE_BYTE, SELECT, CRC_BYTE, CRC_CHECK, CRC_ADDR
  case h_4 hop | h_8 hop | h_10 hop | h_11 hop | h_12 hop => simp [hop]
  case h_13 =>
    have hfree : (opcode.toNat = 0 ∨ 13 ≤ opcode.toNat) ∧ opcode.toNat ∉ [1, 3, 5, 6, 7, 9] ∧
        opcode.toNat ≠ 2 := by
      simp only [imp_false] at *
      simp only [List.mem_cons, List.not_mem_nil, or_false]
      omega
    simp [hfree]

/-- Settles O4: `decode_append_eq_error_iff`, once for each reason. -/
theorem illegalWordsAreRejectedByName : Obligations.IllegalWordsAreRejectedByName := by
  unfold Obligations.IllegalWordsAreRejectedByName
  intro opcode operand
  simp [decode_append_eq_error_iff, ← BitVec.toNat_inj (x := opcode), BitVec.le_def]

/-- Settles O5: twelve words, each evaluated. -/
theorem wordsOfTheOpcodeMapDecode : Obligations.WordsOfTheOpcodeMapDecode := by
  unfold Obligations.WordsOfTheOpcodeMapDecode
  decide

end Sys2Proof
end

section
/-! PROOFS. Family other, host port: command issue (R64), reads (R61, R62, R67, R68), writes (R63) and the
core's reset (R42, R270). -/

namespace Sys2Proof.Machine

/-! ## A word that decodes, written to an idle core (R28, R64) -/

theorem issue_of_decode_eq_ok {s : State} {v : HostWord} {i : Instr} (hb : s.busy = false)
    (hd : decode (v.setWidth 16) = .ok i) : issue v s = exec i s := by
  simp [issue, hb, hd]

theorem postCommand_of_decode_eq_ok {s : State} {v : HostWord} {i : Instr} (hb : s.busy = false)
    (hd : decode (v.setWidth 16) = .ok i) :
    postCommand v s = if zeroTime i s then exec i s else .next (beginCommand i s) := by
  simp [postCommand, hb, hd]

theorem setWidth_setWidth_word (w : CommandWord) : (w.setWidth 32 : HostWord).setWidth 16 = w := by
  rw [BitVec.setWidth_setWidth_of_le w (by decide), BitVec.setWidth_eq]

theorem decodeTableWord_eq_some_iff {nbits w : Nat} {i : Instr} :
    decodeTableWord nbits w = some i ↔ decode (tableWord nbits w) = .ok i := by
  unfold decodeTableWord
  split <;> simp_all

/-- Settles O6: the step is the `CMD` write of its input, and of the word `withFetchWord` places. -/
theorem stepRunsTheDecodedCommand : Obligations.StepRunsTheDecodedCommand := by
  unfold Obligations.StepRunsTheDecodedCommand
  refine ⟨fun s v rest i hi hb hd => ?_, fun s nbits w i hd => ?_⟩
  · rw [step_input hi]
    exact issue_of_decode_eq_ok (s := takeInput rest s) hb hd
  · have hword : decode (((tableWord nbits w).setWidth 32 : HostWord).setWidth 16) = .ok i := by
      rw [setWidth_setWidth_word]
      exact decodeTableWord_eq_some_iff.mp hd
    rw [State.withFetchWord, step_input (s := nextCommand (tableWord nbits w) s) rfl]
    exact issue_of_decode_eq_ok (s := { s with busy := false, seq := Seq.idle }) rfl hword

theorem beginCommand_busy (i : Instr) (s : State) : (beginCommand i s).busy = true := by
  cases i <;> rfl

theorem beginCommand_err (i : Instr) (s : State) : (beginCommand i s).err = 0 := by
  cases i <;> rfl

theorem beginCommand_seq (i : Instr) (s : State) : (beginCommand i s).seq = ⟨some i, firstPhase i, 0⟩ := by
  cases i <;> rfl

theorem beginCommand_trace (i : Instr) (s : State) : (beginCommand i s).trace = s.trace := by
  cases i <;> rfl

theorem beginCommand_line (i : Instr) (s : State) : (beginCommand i s).line = s.line := by
  cases i <;> rfl

/-- Settles O48: the two branches of `postCommand_of_decode_eq_ok`. -/
theorem postedCommandIsAcceptedInOneCycle : Obligations.PostedCommandIsAcceptedInOneCycle := by
  unfold Obligations.PostedCommandIsAcceptedInOneCycle
  intro s v i hb hd
  refine ⟨fun hz => ?_, fun hz => ⟨beginCommand i s, ?_, beginCommand_busy i s, beginCommand_err i s,
    by rw [beginCommand_seq], beginCommand_trace i s, beginCommand_line i s⟩⟩
  · rw [postCommand_of_decode_eq_ok hb hd, if_pos hz]
  · rw [postCommand_of_decode_eq_ok hb hd, hz, if_neg Bool.false_ne_true]

/-! ## Reads (R61, R62) -/

theorem exists_hostRegAt {addr : Nat} (hword : addr % 4 = 0) (hcore : addr < 0x20) :
    ∃ r, hostRegAt addr = some r := by
  have : addr = 0x00 ∨ addr = 0x04 ∨ addr = 0x08 ∨ addr = 0x0C ∨ addr = 0x10 ∨ addr = 0x14 ∨
      addr = 0x18 ∨ addr = 0x1C := by omega
  rcases this with rfl | rfl | rfl | rfl | rfl | rfl | rfl | rfl <;> exact ⟨_, rfl⟩

/-- What the host reads of the register at an offset. -/
theorem hostRead_hostData {addr n : Nat} {r : HostReg} {s t : State} (hr : hostRegAt addr = some r)
    (h : hostRead addr n s = .next t) : t.hostData = readReg r s := by
  obtain ⟨r', hr', rfl⟩ := hostRead_next h
  cases hr.symm.trans hr'
  rfl

/-- A register no running command writes shows its content (R67). -/
theorem settledOr_of_settled {r : HostReg} {s : State} (width : Nat) (content : HostWord)
    (h : unsettledReg r s = false) : settledOr r width content s = content := by
  simp [settledOr, h]

theorem unsettledReg_of_idle {s : State} (r : HostReg) (h : Idle s) : unsettledReg r s = false := by
  simp [unsettledReg, h.seq, Seq.idle]

theorem unsettledReg_of_not_writesReg {s : State} {i : Instr} {r : HostReg} (hop : s.seq.op = some i)
    (h : writesReg i r = false) : unsettledReg r s = false := by
  simp [unsettledReg, hop, h]

/-- STATUS, field by field (R61); bit 1 is `statusWord_ovr`. -/
theorem statusWord_busy (s : State) : (statusWord s).getLsbD 0 = s.busy :=
  (BitVec.getLsbD_append (y := BitVec.ofBool s.busy)).trans (by simp)

theorem statusWord_err (s : State) : (statusWord s).extractLsb' 2 3 = s.err :=
  (BitVec.extractLsb'_append_eq_of_le (xlo := BitVec.ofBool s.busy) (by decide)).trans
    ((BitVec.extractLsb'_append_eq_of_le (by decide)).trans BitVec.extractLsb'_append_eq_right)

theorem statusWord_high (s : State) : (statusWord s).extractLsb' 5 27 = 0 :=
  (BitVec.extractLsb'_append_eq_of_le (xlo := BitVec.ofBool s.busy) (by decide)).trans
    ((BitVec.extractLsb'_append_eq_of_le (by decide)).trans BitVec.extractLsb'_append_eq_left)

/-- CRC, field by field (R61). -/
theorem crcWord_crcAcc (s : State) : (crcWord s).extractLsb' 0 8 = s.crcAcc :=
  BitVec.extractLsb'_append_eq_right

theorem crcWord_crcValid (s : State) : (crcWord s).getLsbD 8 = s.crcValid :=
  (BitVec.getLsbD_append (y := s.crcAcc)).trans ((BitVec.getLsbD_append (y := BitVec.ofBool s.crcValid)).trans
    (by simp))

theorem crcWord_high (s : State) : (crcWord s).extractLsb' 9 23 = 0 :=
  (BitVec.extractLsb'_append_eq_of_le (xlo := s.crcAcc) (by decide)).trans BitVec.extractLsb'_append_eq_left

/-- A byte register reads as the byte, and 0 above it (R61). -/
theorem setWidth_byte_fields (v : Byte) : (v.setWidth 32 : HostWord).extractLsb' 0 8 = v ∧
    (v.setWidth 32 : HostWord).extractLsb' 8 24 = 0 := by
  constructor
  · rw [BitVec.extractLsb'_setWidth_of_le (by decide), BitVec.extractLsb'_eq_self]
  · exact BitVec.eq_of_getLsbD_eq fun k _ => by simp

theorem toNat_ofNat_regCount {s : State} (h : regCount s ≤ 256) :
    (BitVec.ofNat 32 (regCount s)).toNat = regCount s :=
  Nat.mod_eq_of_lt (by omega)

/-- Settles O10: `hostRead_hostData` register by register, each settled on an idle core. -/
theorem hostReadsTheRegisters : Obligations.HostReadsTheRegisters := by
  unfold Obligations.HostReadsTheRegisters
  refine ⟨fun s addr hword hcore => ?_, fun s t h => ?_, fun s t h => ?_, fun s t hidle h => ?_,
    fun s t hidle h => ?_, fun s t hidle hcount h => ?_, fun s t h => ?_⟩
  · obtain ⟨r, hr⟩ := exists_hostRegAt hword hcore
    exact ⟨readReg r s, by simp [hostRead, alignedWord_eq_true_iff.mpr ⟨hword, rfl⟩, hr]⟩
  · rw [hostRead_hostData (r := .cmd) rfl h, readReg]
  · rw [hostRead_hostData (r := .status) rfl h, readReg]
    exact ⟨statusWord_busy s, statusWord_ovr s, statusWord_err s, statusWord_high s⟩
  · rw [hostRead_hostData (r := .data) rfl h, readReg, settledOr_of_settled _ _ (unsettledReg_of_idle _ hidle)]
    exact setWidth_byte_fields s.data
  · rw [hostRead_hostData (r := .crc) rfl h, readReg, settledOr_of_settled _ _ (unsettledReg_of_idle _ hidle)]
    exact ⟨crcWord_crcAcc s, crcWord_crcValid s, crcWord_high s⟩
  · rw [hostRead_hostData (r := .regCount) rfl h, readReg,
      settledOr_of_settled _ _ (unsettledReg_of_idle _ hidle), toNat_ofNat_regCount hcount]
  · rw [hostRead_hostData (r := .regIndex) rfl h, readReg]
    exact setWidth_byte_fields s.regIndex

/-! ## The window on the registry (R68) -/

theorem windowWord_of_beyond {s : State} (hi : Bool) (h : s.regDepth ≤ s.regIndex.toNat) :
    windowWord hi s = 0 :=
  if_pos h

/-- A half of a valid entry, while nothing that writes the registry runs. -/
theorem windowWord_of_entry {s : State} {a : Address} (hi : Bool) (hcount : regCount s ≤ s.regDepth)
    (ha : s.registry[s.regIndex.toNat]? = some a)
    (hset : unsettledReg (if hi then .regHi else .regLo) s = false) :
    windowWord hi s = a.extractLsb' (if hi then 32 else 0) 32 := by
  have hin : s.regIndex.toNat < regCount s := (List.getElem?_eq_some_iff.mp ha).1
  rw [windowWord, if_neg (by omega), (lookup_eq_some_iff _ _ _).mpr ha]
  exact settledOr_of_settled _ _ hset

theorem hostRead_window_of_beyond {s : State} (h : s.regDepth ≤ s.regIndex.toNat) :
    (∀ t, hostRead 0x18 4 s = .next t → t.hostData = 0) ∧
    (∀ t, hostRead 0x1C 4 s = .next t → t.hostData = 0) :=
  ⟨fun _ ht => (hostRead_hostData (r := .regLo) rfl ht).trans (windowWord_of_beyond false h),
   fun _ ht => (hostRead_hostData (r := .regHi) rfl ht).trans (windowWord_of_beyond true h)⟩

theorem hostRead_window_of_entry {s : State} {a : Address} (hcount : regCount s ≤ s.regDepth)
    (ha : s.registry[s.regIndex.toNat]? = some a) (hlo : unsettledReg .regLo s = false)
    (hhi : unsettledReg .regHi s = false) :
    (∀ t, hostRead 0x18 4 s = .next t → t.hostData = a.extractLsb' 0 32) ∧
    (∀ t, hostRead 0x1C 4 s = .next t → t.hostData = a.extractLsb' 32 32) :=
  ⟨fun _ ht => (hostRead_hostData (r := .regLo) rfl ht).trans (windowWord_of_entry false hcount ha hlo),
   fun _ ht => (hostRead_hostData (r := .regHi) rfl ht).trans (windowWord_of_entry true hcount ha hhi)⟩

/-- Settles O12: the window's two clauses, on an idle core. -/
theorem windowShowsTheEntry : Obligations.WindowShowsTheEntry := by
  unfold Obligations.WindowShowsTheEntry
  intro s t u hidle hcount ht hu
  refine ⟨fun a ha => ?_, fun hbeyond => ?_⟩
  · obtain ⟨hlo, hhi⟩ := hostRead_window_of_entry hcount ha (unsettledReg_of_idle _ hidle)
      (unsettledReg_of_idle _ hidle)
    exact ⟨hlo t ht, hhi u hu⟩
  · obtain ⟨hlo, hhi⟩ := hostRead_window_of_beyond hbeyond
    exact ⟨hlo t ht, hhi u hu⟩

/-- Settles O11: the running command's row of R43 does not name the register, so it is settled. -/
theorem readsWhileBusySettled : Obligations.ReadsWhileBusySettled := by
  unfold Obligations.ReadsWhileBusySettled
  intro s t i hop
  have hreg (h1 : i ≠ .search) (h2 : i ≠ .readAddress) :
      unsettledReg .regCount s = false ∧ unsettledReg .regLo s = false ∧ unsettledReg .regHi s = false :=
    ⟨unsettledReg_of_not_writesReg hop (by simp [writesReg, h1, h2]),
     unsettledReg_of_not_writesReg hop (by simp [writesReg, h1, h2]),
     unsettledReg_of_not_writesReg hop (by simp [writesReg, h1, h2])⟩
  refine ⟨fun h1 h2 h => ?_, fun h1 h => ?_, fun h1 h2 hcount h => ?_, fun a h1 h2 hcount ha => ?_,
    fun _ _ hbeyond => ?_⟩
  · have hset := unsettledReg_of_not_writesReg (r := .data) hop (by simp [writesReg, h1, h2])
    rw [hostRead_hostData (r := .data) rfl h, readReg, settledOr_of_settled _ _ hset]
  · have hset := unsettledReg_of_not_writesReg (r := .crc) hop (by simp [writesReg, h1])
    rw [hostRead_hostData (r := .crc) rfl h, readReg, settledOr_of_settled _ _ hset]
  · rw [hostRead_hostData (r := .regCount) rfl h, readReg, settledOr_of_settled _ _ (hreg h1 h2).1,
      toNat_ofNat_regCount hcount]
  · obtain ⟨_, hsetLo, hsetHi⟩ := hreg h1 h2
    obtain ⟨hlo, hhi⟩ := hostRead_window_of_entry hcount ha hsetLo hsetHi
    exact ⟨hlo t, hhi t⟩
  · obtain ⟨hlo, hhi⟩ := hostRead_window_of_beyond hbeyond
    exact ⟨hlo t, hhi t⟩

/-! ## Writes outside `CMD` (R63) -/

theorem writeStatus_eq (v : HostWord) (s : State) :
    writeStatus v s = { s with ovr := s.ovr && !v.getLsbD 1 } := by
  unfold writeStatus
  cases v.getLsbD 1 <;> simp

theorem setWidth_eq_extractLsb'_zero (v : HostWord) : v.setWidth 8 = v.extractLsb' 0 8 :=
  BitVec.eq_of_getLsbD_eq fun k _ => by simp

/-- Settles O13: `writeStatus_eq`, the low byte for `REG_INDEX`, and the five registers that ignore a
write. -/
theorem hostWritesOfTheOtherRegisters : Obligations.HostWritesOfTheOtherRegisters := by
  unfold Obligations.HostWritesOfTheOtherRegisters
  intro s v
  refine ⟨?_, ?_, fun addr haddr => ?_⟩
  · rw [hostWrite_status, writeStatus_eq]
  · rw [← setWidth_eq_extractLsb'_zero]
    rfl
  · simp only [List.mem_cons, List.not_mem_nil, or_false] at haddr
    rcases haddr with rfl | rfl | rfl | rfl | rfl <;> rfl

/-! ## Core reset (R42, R270, R271) -/

/-- Settles O15: R42's table, field by field. -/
theorem resetLeavesAnIdleEmptyCore : Obligations.ResetLeavesAnIdleEmptyCore := by
  unfold Obligations.ResetLeavesAnIdleEmptyCore
  exact ⟨rfl, rfl, rfl, rfl, rfl, rfl, rfl, rfl, rfl, rfl, rfl⟩

/-- Settles O16: `coreReset`, field by field. -/
theorem coreResetAbandonsTheCommand : Obligations.CoreResetAbandonsTheCommand := by
  unfold Obligations.CoreResetAbandonsTheCommand
  exact fun s => ⟨coreReset s, rfl, rfl, rfl, rfl, rfl, rfl, rfl, rfl, rfl, rfl, rfl, rfl, rfl, rfl, rfl⟩

end Sys2Proof.Machine
end

section
/-! PROOFS. Family other, CRC-8: the tables (R121 to R123), the laws (R126, R127), the command sequence
(R134); and the temperature arithmetic of the consumer layer (R226, R227). -/

namespace Sys2Proof.Machine

/-! ## The tables -/

/-- Settles O17: the sixteen entries of each table, and `crcUpdateTable_eq_crcUpdate`. -/
theorem crcTablesAreTheBitSerialForm : Obligations.CrcTablesAreTheBitSerialForm := by
  unfold Obligations.CrcTablesAreTheBitSerialForm
  exact ⟨by decide +kernel, crcUpdateTable_eq_crcUpdate⟩

/-! ## Round trip and residue (R127 (a) to (c)) -/

theorem crc8_concat (bytes : List Byte) (v : Byte) : crc8 (bytes ++ [v]) = crcUpdate (crc8 bytes) v := by
  simp [crc8]

theorem crcValidFor_iff {bytes : List Byte} {stored : Byte} :
    crcValidFor bytes stored = true ↔ crc8 bytes = stored :=
  beq_iff_eq

theorem crcUpdate_zero_right_eq_zero_iff : ∀ x : Byte, crcUpdate x 0 = 0 ↔ x = 0 := by
  decide +kernel

/-- The residue is 0 exactly when the byte is the accumulator. -/
theorem crcUpdate_eq_zero_iff {acc v : Byte} : crcUpdate acc v = 0 ↔ acc = v := by
  rw [crcUpdate_eq_xor_zero, crcUpdate_zero_right_eq_zero_iff]
  exact BitVec.xor_eq_zero_iff

theorem crc8_allBytes_eq_zero_iff {a : Address} : crc8 (allBytes a) = 0 ↔ validAddress a = true := by
  rw [allBytes, crc8_concat, crcUpdate_eq_zero_iff, validAddress, crcValidFor_iff]
  rfl

/-! ## Linearity (R127 (d)) -/

/-- The feedback constant counts in or out as a sum of bits, the shift is linear. -/
theorem crcBit_xor (a b : Byte) (x y : Bool) : crcBit (a ^^^ b) (x ^^ y) = crcBit a x ^^^ crcBit b y := by
  have hfeed (c : Byte) (z : Bool) :
      crcBit c z = (c >>> 1) ^^^ (if c.getLsbD 0 ^^ z then 0x8C#8 else 0#8) := by
    unfold crcBit
    split <;> simp
  have hsum (p q : Bool) : (if p ^^ q then 0x8C#8 else 0#8) =
      (if p then 0x8C#8 else 0#8) ^^^ (if q then 0x8C#8 else 0#8) := by
    cases p <;> cases q <;> rfl
  have hbits : ((a ^^^ b).getLsbD 0 ^^ (x ^^ y)) = ((a.getLsbD 0 ^^ x) ^^ (b.getLsbD 0 ^^ y)) := by
    rw [BitVec.getLsbD_xor, Bool.xor_assoc, Bool.xor_assoc, Bool.xor_left_comm (b.getLsbD 0)]
  rw [hfeed, hfeed, hfeed, hbits, hsum, BitVec.ushiftRight_xor_distrib]
  ac_rfl

theorem crcUpdate_xor (a b v w : Byte) : crcUpdate (a ^^^ b) (v ^^^ w) = crcUpdate a v ^^^ crcUpdate b w := by
  unfold crcUpdate
  induction List.range 8 generalizing a b with
  | nil => rfl
  | cons k ks ih => rw [List.foldl_cons, List.foldl_cons, List.foldl_cons, ← ih, BitVec.getLsbD_xor, crcBit_xor]

theorem foldl_crcUpdate_zipWith_xor {x y : List Byte} (a b : Byte) (h : x.length = y.length) :
    (List.zipWith (· ^^^ ·) x y).foldl crcUpdate (a ^^^ b) = x.foldl crcUpdate a ^^^ y.foldl crcUpdate b := by
  induction x generalizing y a b with
  | nil =>
    cases y with
    | nil => rfl
    | cons w y => cases h
  | cons v x ih =>
    cases y with
    | nil => cases h
    | cons w y =>
      rw [List.zipWith_cons_cons, List.foldl_cons, List.foldl_cons, List.foldl_cons, crcUpdate_xor,
        ih _ _ (Nat.succ.inj h)]

/-- Settles O18, law by law. -/
theorem crcLaws : Obligations.CrcLaws := by
  unfold Obligations.CrcLaws
  refine ⟨rfl, fun c => ?_, fun buffer => ⟨?_, ?_⟩, fun a => crc8_allBytes_eq_zero_iff.symm,
    fun x y h => foldl_crcUpdate_zipWith_xor 0 0 h, crc8_replicate_zero, fun acc byte acc' byte' h => ?_⟩
  · exact crcValidFor_iff.trans eq_comm
  · rw [crcValidFor_iff, List.take_left]
    simp
  · rw [crc8_concat, crcUpdate_self]
  · rw [crcUpdate_eq_xor_zero, h, ← crcUpdate_eq_xor_zero]

/-! ## CRC_INIT, CRC_BYTE …, CRC_CHECK (R134) -/

theorem runCommands_crcBytes (bytes : List Byte) (rest : List Instr) {s : State} (herr : s.err = 0) :
    runCommands (bytes.map .crcByte ++ rest) s =
      runCommands rest { s with crcAcc := bytes.foldl crcUpdate s.crcAcc } := by
  induction bytes generalizing s with
  | nil => rfl
  | cons v bytes ih =>
    rw [List.map_cons, List.cons_append, runCommands_cons _ (exec_crcByte v s), ih rfl, ← herr]
    rfl

/-- Settles O23: the bytes between CRC_INIT and CRC_CHECK by `runCommands_crcBytes`. -/
theorem crcCommandsComputeTheFunction : Obligations.CrcCommandsComputeTheFunction := by
  unfold Obligations.CrcCommandsComputeTheFunction
  intro s bytes c
  rw [List.append_assoc, List.singleton_append, runCommands_cons _ (exec_crcInit s),
    runCommands_crcBytes bytes _ rfl, runCommands_cons _ (exec_crcCheck c _), runCommands_nil]
  rfl

/-! ## Milli-degrees (R226, R227) -/

theorem rawCount_bounds (lo hi : Byte) : -32768 ≤ rawCount lo hi ∧ rawCount lo hi < 32768 :=
  ⟨BitVec.le_toInt _, BitVec.toInt_lt⟩

theorem milliDegrees_of_nonneg {lo hi : Byte} (h : 0 ≤ rawCount lo hi) :
    milliDegrees lo hi = rawCount lo hi * 625 / 10 :=
  Int.tdiv_eq_ediv_of_nonneg (by omega)

/-- A negative count is divided as its absolute value is (G3). -/
theorem milliDegrees_of_neg {lo hi : Byte} (h : rawCount lo hi < 0) :
    milliDegrees lo hi = -((-(rawCount lo hi) * 625) / 10) := by
  rw [← Int.tdiv_eq_ediv_of_nonneg (a := -(rawCount lo hi) * 625) (by omega), ← Int.neg_tdiv, milliDegrees]
  congr 1
  omega

/-- Settles O50: the range from the 16-bit count, the quotient by its sign, the examples evaluated. -/
theorem temperatureArithmetic : Obligations.TemperatureArithmetic := by
  unfold Obligations.TemperatureArithmetic
  refine ⟨fun lo hi => ?_, fun lo hi => ?_, fun lo hi => milliDegrees_of_nonneg,
    fun lo hi => milliDegrees_of_neg, by decide, by decide, by decide⟩
  · have h := rawCount_bounds lo hi
    omega
  · omega

end Sys2Proof.Machine
end

section
/-! PROOFS. Family other, the sequencer (R28, R40, R41): from the first cycle of a command with pin events
the small steps reach the state its meaning gives. -/

namespace Sys2Proof.Machine

/-! ## Small steps in a row -/

/-- Some number of small steps leads from `s` to `t`, and until then `BUSY` is 1 and `ERR` is 0. -/
def Reaches (s t : State) : Prop :=
  ∃ n, seqRun n s = .next t ∧ ∀ m < n, ∃ u, seqRun m s = .next u ∧ u.busy = true ∧ u.err = 0

theorem seqRun_succ {s t : State} (n : Nat) (h : seqTick s = .next t) : seqRun (n + 1) s = seqRun n t := by
  rw [seqRun, h]

theorem Reaches.refl (s : State) : Reaches s s := ⟨0, rfl, fun _ hm => absurd hm (Nat.not_lt_zero _)⟩

/-- One small step in front. -/
theorem Reaches.tick {s t u : State} (hb : s.busy = true) (he : s.err = 0) (h : seqTick s = .next t)
    (htu : Reaches t u) : Reaches s u := by
  obtain ⟨n, hn, hbefore⟩ := htu
  refine ⟨n + 1, (seqRun_succ n h).trans hn, fun m hm => ?_⟩
  cases m with
  | zero => exact ⟨s, rfl, hb, he⟩
  | succ m =>
    rw [seqRun_succ m h]
    exact hbefore m (by omega)

theorem Reaches.trans {s t u : State} (hst : Reaches s t) (htu : Reaches t u) : Reaches s u := by
  obtain ⟨n, hn, hbefore⟩ := hst
  induction n generalizing s with
  | zero => cases hn; exact htu
  | succ n ih =>
    obtain ⟨_, h0, hb, he⟩ := hbefore 0 (Nat.succ_pos n)
    cases h0
    cases htick : seqTick s with
    | next v =>
      refine Reaches.tick hb he htick (ih ((seqRun_succ n htick).symm.trans hn) fun m hm => ?_)
      rw [← seqRun_succ m htick]
      exact hbefore (m + 1) (by omega)
    | fault e => rw [seqRun, htick] at hn; cases hn
    | refused e => rw [seqRun, htick] at hn; cases hn

/-! ## One primitive -/

/-- A command is under way, and no `Wait` is. -/
structure UnderWay (s : State) : Prop where
  op : s.seq.op.isNone = false
  busy : s.busy = true
  err : s.err = 0
  timer : s.timer = 0

theorem UnderWay.apply {s : State} (h : UnderWay s) (p : Prim) : UnderWay (p.apply s) := by
  obtain ⟨hop, hb, he, ht⟩ := h
  cases p with
  | wait n => exact ⟨hop, hb, he, rfl⟩
  | driveLow | release | sample => exact ⟨hop, hb, he, ht⟩

theorem UnderWay.moved {s : State} (h : UnderWay s) (ph : Phase) (k : Nat) : UnderWay (goTo ph k s) :=
  ⟨h.op, h.busy, h.err, h.timer⟩

theorem seq_apply (p : Prim) (s : State) : (p.apply s).seq = s.seq := by
  cases p <;> rfl

theorem seqPrims_apply (p : Prim) (s : State) : seqPrims (p.apply s) = seqPrims s := by
  cases p <;> rfl

theorem apply_goTo (p : Prim) (ph : Phase) (k : Nat) (s : State) :
    p.apply (goTo ph k s) = goTo ph k (p.apply s) := by
  cases p <;> rfl

theorem seqPrims_goTo {ph : Phase} {s : State} (k : Nat) (h : s.seq.phase = ph) :
    seqPrims (goTo ph k s) = seqPrims s := by
  subst h; rfl

theorem goTo_self (s : State) : goTo s.seq.phase s.seq.slot s = s := rfl

/-- The rest of a `Wait` that has `k + 1` microseconds left. -/
theorem reaches_wait_rest {s : State} {n : Nat} (hw : UnderWay s)
    (hp : (seqPrims s)[s.seq.slot]? = some (.wait n)) (k : Nat) :
    Reaches { s with timer := k + 1 } (afterPrim (wait n s)) := by
  have hp' (j : Nat) : (seqPrims { s with timer := j })[s.seq.slot]? = some (.wait n) := hp
  induction k with
  | zero =>
    refine Reaches.tick hw.busy hw.err ?_ (Reaches.refl _)
    simp only [seqTick, hw.op, hp']
    rfl
  | succ k ih =>
    refine Reaches.tick hw.busy hw.err ?_ ih
    simp only [seqTick, hw.op, hp']
    rfl

/-- A `Wait(n)` loads `TIMER` and takes `n` ticks (R41). -/
theorem reaches_wait {s : State} {n : Nat} (hw : UnderWay s)
    (hp : (seqPrims s)[s.seq.slot]? = some (.wait (n + 1))) : Reaches s (afterPrim (wait (n + 1) s)) := by
  refine Reaches.tick hw.busy hw.err ?_ (reaches_wait_rest hw hp n)
  simp [seqTick, hw.op, hp, hw.timer]

/-- Whether primitives may be taken in this order, the pin being driven at their start or not: no `Wait(0)`
and no `Sample()` while driving (00_scope.md section 7). -/
def primsLegal : Bool → List Prim → Bool
  | _, [] => true
  | _, .driveLow :: ps => primsLegal true ps
  | _, .release :: ps => primsLegal false ps
  | driven, .wait n :: ps => n != 0 && primsLegal driven ps
  | driven, .sample :: ps => !driven && primsLegal driven ps

theorem primsLegal_cons {s : State} {p : Prim} {ps : List Prim} (h : primsLegal s.dqOe (p :: ps) = true) :
    primsLegal (p.apply s).dqOe ps = true := by
  cases p with
  | driveLow | release => exact h
  | wait n | sample => exact (Bool.and_eq_true_iff.mp h).2

theorem reaches_prim {s : State} {p : Prim} {ps : List Prim} (hw : UnderWay s)
    (hp : (seqPrims s)[s.seq.slot]? = some p) (hlegal : primsLegal s.dqOe (p :: ps) = true) :
    Reaches s (afterPrim (p.apply s)) := by
  cases p with
  | driveLow | release =>
    refine Reaches.tick hw.busy hw.err ?_ (Reaches.refl _)
    simp [seqTick, hw.op, hp, Prim.apply]
  | wait n =>
    cases n with
    | zero => cases hlegal
    | succ n => exact reaches_wait hw hp
  | sample =>
    have hd : s.dqOe = false := by simpa using (Bool.and_eq_true_iff.mp hlegal).1
    refine Reaches.tick hw.busy hw.err ?_ (Reaches.refl _)
    simp [seqTick, hw.op, hp, hd, Prim.apply]

/-! ## Primitives in a row -/

theorem runPrims_goTo (ps : List Prim) (ph : Phase) (k : Nat) (s : State) :
    runPrims ps (goTo ph k s) = goTo ph k (runPrims ps s) := by
  induction ps generalizing s with
  | nil => rfl
  | cons p ps ih =>
    show runPrims ps (p.apply (goTo ph k s)) = goTo ph k (runPrims ps (p.apply s))
    rw [apply_goTo, ih]

theorem seq_runPrims (ps : List Prim) (s : State) : (runPrims ps s).seq = s.seq := by
  induction ps generalizing s with
  | nil => rfl
  | cons p ps ih => exact (ih (p.apply s)).trans (seq_apply p s)

theorem seqPrims_runPrims (ps : List Prim) (s : State) : seqPrims (runPrims ps s) = seqPrims s := by
  induction ps generalizing s with
  | nil => rfl
  | cons p ps ih => exact (ih (p.apply s)).trans (seqPrims_apply p s)

theorem UnderWay.runPrims {s : State} (h : UnderWay s) (ps : List Prim) : UnderWay (runPrims ps s) := by
  induction ps generalizing s with
  | nil => exact h
  | cons p ps ih => exact ih (h.apply p)

/-- The primitives `qs` that `SLOT` counts through next, all of them but the last moving it on by one only:
they are taken one after the other, and what follows the last one is left open. -/
theorem reaches_prims {qs : List Prim} {s : State} (hw : UnderWay s) (hne : qs ≠ [])
    (hqs : ∀ k < qs.length, (seqPrims s)[s.seq.slot + k]? = qs[k]?)
    (hlegal : primsLegal s.dqOe qs = true)
    (hmove : ∀ u k, u.seq = { s.seq with slot := s.seq.slot + k } → seqPrims u = seqPrims s →
      k + 1 < qs.length → afterPrim u = goTo s.seq.phase (s.seq.slot + k + 1) u) :
    Reaches s (afterPrim (goTo s.seq.phase (s.seq.slot + (qs.length - 1)) (runPrims qs s))) := by
  induction qs generalizing s with
  | nil => exact absurd rfl hne
  | cons p qs ih =>
    have hfirst := reaches_prim hw (hqs 0 (Nat.succ_pos _)) hlegal
    cases qs with
    | nil =>
      have hstay : goTo s.seq.phase (s.seq.slot + 0) (p.apply s) = p.apply s := by
        rw [← seq_apply p s]; exact goTo_self _
      exact (congrArg afterPrim hstay).symm ▸ hfirst
    | cons q qs =>
      rw [hmove (p.apply s) 0 (seq_apply p s) (seqPrims_apply p s) (by simp)] at hfirst
      refine hfirst.trans ?_
      have hseq : (goTo s.seq.phase (s.seq.slot + 0 + 1) (p.apply s)).seq =
          { s.seq with slot := s.seq.slot + 1 } := by simp [goTo, seq_apply]
      have hprims : seqPrims (goTo s.seq.phase (s.seq.slot + 0 + 1) (p.apply s)) = seqPrims s := by
        rw [seqPrims_goTo _ (by rw [seq_apply]), seqPrims_apply]
      have hrest := ih (s := goTo s.seq.phase (s.seq.slot + 0 + 1) (p.apply s))
        ((hw.apply p).moved _ _) (by simp) (fun k hk => ?_) (primsLegal_cons hlegal) (fun u k hu hup hk => ?_)
      · rw [hseq, runPrims_goTo] at hrest
        have hslot : s.seq.slot + 1 + ((q :: qs).length - 1) = s.seq.slot + ((p :: q :: qs).length - 1) := by
          simp only [List.length_cons]; omega
        rw [hslot] at hrest
        exact hrest
      · rw [hseq, hprims]
        have := hqs (k + 1) (by simpa using hk)
        rw [Nat.add_right_comm, Nat.add_assoc, this, List.getElem?_cons_succ]
      · rw [hseq] at hu ⊢
        have := hmove u (k + 1) (by rw [hu]; simp only [Nat.add_assoc, Nat.add_comm 1])
          (hup.trans hprims) (by simpa using hk)
        rw [this]
        simp only [Nat.add_assoc, Nat.add_comm 1]

/-! ## One slot outside the 64 positions of SEARCH -/

/-- At the first primitive of a slot: command `i` is under way in phase `ph`. -/
structure AtSlot (i : Instr) (ph : Phase) (s : State) : Prop where
  busy : s.busy = true
  err : s.err = 0
  timer : s.timer = 0
  seq : s.seq = ⟨some i, ph, 0⟩

theorem AtSlot.underWay {i : Instr} {ph : Phase} {s : State} (h : AtSlot i ph s) : UnderWay s :=
  ⟨by rw [h.seq]; rfl, h.busy, h.err, h.timer⟩

theorem AtSlot.moved {i : Instr} {ph : Phase} {s : State} (h : AtSlot i ph s) (ph' : Phase) :
    AtSlot i ph' (goTo ph' 0 s) :=
  ⟨h.busy, h.err, h.timer, by simp [goTo, h.seq]⟩

/-- The slot's primitives are over, the last one leaving `SLOT` at their number less one. -/
theorem AtSlot.runPrims {i : Instr} {ph : Phase} {s : State} (h : AtSlot i ph s) (ps : List Prim) :
    AtSlot i ph (runPrims ps s) := by
  obtain ⟨_, hb, he, ht⟩ := h.underWay.runPrims ps
  exact ⟨hb, he, ht, (seq_runPrims ps s).trans h.seq⟩

theorem atSlot_writeSlot {i : Instr} {ph : Phase} {s : State} (b : Bool) (h : AtSlot i ph s) :
    AtSlot i ph (writeSlot b s) := h.runPrims (writePrims b)

theorem atSlot_readSlot {i : Instr} {ph : Phase} {s : State} (h : AtSlot i ph s) :
    AtSlot i ph (readSlot s) := h.runPrims readPrims

theorem AtSlot.seq_moved {i : Instr} {ph : Phase} {s : State} (h : AtSlot i ph s) (ph' : Phase) (k : Nat) :
    (goTo ph' k s).seq = ⟨some i, ph', k⟩ := by simp [goTo, h.seq]

theorem goTo_goTo (ph ph' : Phase) (k k' : Nat) (s : State) :
    goTo ph k (goTo ph' k' s) = goTo ph k s := rfl

theorem AtSlot.goTo_eq {i : Instr} {ph : Phase} {s : State} (h : AtSlot i ph s) : goTo ph 0 s = s := by
  have hs := goTo_self s
  rwa [h.seq] at hs

/-- Outside SEARCH's positions a primitive that is not the slot's last moves `SLOT` on, and the last one
ends the slot. -/
theorem afterPrim_of_slot {u : State} (hs : ¬(u.seq.op = some .search ∧ u.seq.phase = .bits)) :
    afterPrim u = if u.seq.slot + 1 = (seqPrims u).length then afterSlot u
      else goTo u.seq.phase (u.seq.slot + 1) u :=
  if_neg hs

theorem reaches_afterSlot {i : Instr} {ph : Phase} {s : State} {ps : List Prim} (h : AtSlot i ph s)
    (hs : ¬(i = .search ∧ ph = .bits)) (hps : seqPrims s = ps) (hne : ps ≠ [])
    (hlegal : ∀ d, primsLegal d ps = true) :
    Reaches s (afterSlot (goTo ph (ps.length - 1) (runPrims ps s))) := by
  have hpos : 0 < ps.length := List.length_pos_iff.mpr hne
  have hrun := reaches_prims (qs := ps) h.underWay hne (fun k _ => by rw [hps, h.seq, Nat.zero_add])
    (hlegal _) (fun u k hu hup hk => ?_)
  · rw [h.seq, Nat.zero_add, afterPrim_of_slot] at hrun
    · have hprims : seqPrims (goTo ph (ps.length - 1) (runPrims ps s)) = ps := by
        rw [seqPrims_goTo _ (by rw [seq_runPrims, h.seq]), seqPrims_runPrims, hps]
      rw [hprims] at hrun
      rwa [if_pos] at hrun
      show ps.length - 1 + 1 = ps.length
      omega
    · simpa [goTo, seq_runPrims, h.seq] using hs
  · rw [afterPrim_of_slot (by simpa [hu, h.seq] using hs), hup, hps, hu, if_neg]
    rw [h.seq]
    show 0 + k + 1 ≠ ps.length
    omega

theorem reaches_pulse {i : Instr} {s : State} (h : AtSlot i .resetPulse s) (hps : seqPrims s = resetPrims) :
    Reaches s (afterSlot (goTo .resetPulse 5 (resetPulse s))) :=
  reaches_afterSlot h (by simp) hps (by simp [resetPrims]) (by decide)

theorem reaches_writeSlot {i : Instr} {ph : Phase} {s : State} {b : Bool} (h : AtSlot i ph s)
    (hs : ¬(i = .search ∧ ph = .bits)) (hps : seqPrims s = writePrims b) :
    Reaches s (afterSlot (goTo ph 3 (writeSlot b s))) := by
  have := reaches_afterSlot h hs hps (by cases b <;> simp [writePrims]) (by cases b <;> decide)
  cases b <;> exact this

theorem reaches_readSlot {i : Instr} {ph : Phase} {s : State} (h : AtSlot i ph s)
    (hs : ¬(i = .search ∧ ph = .bits)) (hps : seqPrims s = readPrims) :
    Reaches s (afterSlot (goTo ph 5 (readSlot s))) :=
  reaches_afterSlot h hs hps (by simp [readPrims]) (by decide)

/-! ## The commands of one slot -/

theorem beginCommand_atSlot (i : Instr) (s : State) : AtSlot i (firstPhase i) (beginCommand i s) := by
  cases i <;> exact ⟨rfl, rfl, rfl, rfl⟩

/-! What follows a slot, by the command and the phase. -/

theorem afterSlot_pulse {s : State} (h : s.seq.phase = .resetPulse) : afterSlot s = afterPulse s := by
  simp [afterSlot, h]

theorem afterSlot_cmdByte {s : State} (h : s.seq.phase = .cmdByte) : afterSlot s = afterCmdBit s := by
  simp [afterSlot, h]

theorem afterSlot_bits {i : Instr} {s : State} (h : s.seq.op = some i) (hp : s.seq.phase = .bits) :
    afterSlot s =
      match i with
      | .readBit => finish (storeBit s)
      | .writeByte _ => if (shiftOut s).bitIdx = 8 then finish (shiftOut s) else goTo .bits 0 (shiftOut s)
      | .readByte =>
        if (shiftIn s).bitIdx = 8 then finish (storeByte (shiftIn s)) else goTo .bits 0 (shiftIn s)
      | .readAddress =>
        if (storeRomBit s).bitPos = 64 then (checkAddress (storeRomBit s)).settle
        else goTo .bits 0 (storeRomBit s)
      | .select _ =>
        if (nextPosition s).bitPos = 64 then finish (nextPosition s) else goTo .bits 0 (nextPosition s)
      | _ => finish s := by
  cases i <;> simp [afterSlot, h, hp]

/-- The end of a command forgets where the sequencer stood. -/
theorem finish_goTo (ph : Phase) (k : Nat) (s : State) : finish (goTo ph k s) = finish s := rfl

theorem raise_goTo (e : ErrorKind) (ph : Phase) (k : Nat) (s : State) :
    raise e (goTo ph k s) = raise e s := rfl

theorem reaches_reset (s : State) : Reaches (beginCommand .reset s) (resetOrRaise (accept .reset s)).settle := by
  have h := beginCommand_atSlot .reset s
  have hrun := reaches_pulse h (by simp [seqPrims, h.seq, firstPhase])
  rw [afterSlot_pulse rfl] at hrun
  refine (congrArg (Reaches _) ?_).mp hrun
  have hop : (goTo .resetPulse 5 (resetPulse (beginCommand .reset s))).seq.op = some .reset := rfl
  rw [afterPulse, hop, resetOrRaise]
  cases hl : (resetPulse (accept .reset s)).latch with
  | true => exact if_pos hl
  | false => exact if_neg (by rw [Bool.not_eq_true]; exact hl)

theorem reaches_writeBit (operand : Byte) (s : State) : Reaches (beginCommand (.writeBit operand) s)
    (finish (writeSlot (bitOperand operand) (accept (.writeBit operand) s))) := by
  have h := beginCommand_atSlot (.writeBit operand) s
  have hrun := reaches_writeSlot (b := bitOperand operand) h (by simp) (by simp [seqPrims, h.seq, firstPhase])
  rwa [afterSlot_bits (i := .writeBit operand) (by cases bitOperand operand <;> rfl) rfl] at hrun

theorem reaches_readBit (s : State) : Reaches (beginCommand .readBit s)
    (finish (storeBit (readSlot (accept .readBit s)))) := by
  have h := beginCommand_atSlot .readBit s
  have hrun := reaches_readSlot h (by simp) (by simp [seqPrims, h.seq, firstPhase])
  rwa [afterSlot_bits (i := .readBit) rfl rfl] at hrun

end Sys2Proof.Machine
end

section
/-! PROOFS. Family other, the sequencer continued: bytes, addresses, and the commands that begin with a reset
pulse and a ROM command byte (R40). -/

namespace Sys2Proof.Machine

/-! ## Slots in a row -/

/-- A loop of slots: after each, `counter` tells whether the loop goes on or is over. -/
theorem reaches_iterate {Q : State → Prop} {g f : State → State} {counter : State → Nat} {limit : Nat}
    (hstep : ∀ u, Q u → Reaches u (if counter (g u) = limit then f (g u) else g u))
    (hkeep : ∀ u, Q u → Q (g u)) (hcount : ∀ u, counter (g u) = counter u + 1) (n : Nat) {s : State}
    (hs : Q s) (hn : counter s + (n + 1) = limit) : Reaches s (f (g^[n + 1] s)) := by
  induction n generalizing s with
  | zero =>
    have h := hstep s hs
    rwa [if_pos (by rw [hcount]; omega)] at h
  | succ n ih =>
    have h := hstep s hs
    rw [if_neg (by rw [hcount]; omega)] at h
    exact h.trans (ih (hkeep s hs) (by rw [hcount]; omega))

/-- One bit of a byte being written (R161). -/
def sendBit (s : State) : State := shiftOut (writeSlot (s.shift.getLsbD 0) s)

/-- One bit of a byte being read (R164). -/
def receiveBit (s : State) : State := shiftIn (readSlot s)

/-- One position of a READ_ADDRESS (R200). -/
def receivePosition (s : State) : State := storeRomBit (readSlot s)

/-- One position of a SELECT (R209). -/
def sendPosition (a : Address) (s : State) : State := nextPosition (writeSlot (bitAt a s.bitPos) s)

theorem writeBits_eq_iterate (n : Nat) (s : State) : writeBits n s = sendBit^[n] s := by
  induction n generalizing s with
  | zero => rfl
  | succ n ih => exact ih _

theorem readBits_eq_iterate (n : Nat) (s : State) : readBits n s = receiveBit^[n] s := by
  induction n generalizing s with
  | zero => rfl
  | succ n ih => exact ih _

theorem readAddressBits_eq_iterate (n : Nat) (s : State) : readAddressBits n s = receivePosition^[n] s := by
  induction n generalizing s with
  | zero => rfl
  | succ n ih => exact ih _

theorem writeAddressBits_eq_iterate (a : Address) (n : Nat) (s : State) :
    writeAddressBits a n s = (sendPosition a)^[n] s := by
  induction n generalizing s with
  | zero => rfl
  | succ n ih => exact ih _

theorem iterate_goTo {g : State → State} (hg : ∀ ph k u, g (goTo ph k u) = goTo ph k (g u)) (n : Nat)
    (ph : Phase) (k : Nat) (s : State) : g^[n] (goTo ph k s) = goTo ph k (g^[n] s) :=
  (Function.Semiconj.iterate_right (f := goTo ph k) (fun u => (hg ph k u).symm) n s).symm

theorem writeSlot_goTo (b : Bool) (ph : Phase) (k : Nat) (s : State) :
    writeSlot b (goTo ph k s) = goTo ph k (writeSlot b s) := runPrims_goTo _ ph k s

theorem readSlot_goTo (ph : Phase) (k : Nat) (s : State) :
    readSlot (goTo ph k s) = goTo ph k (readSlot s) := rfl

theorem sendBit_goTo (ph : Phase) (k : Nat) (s : State) : sendBit (goTo ph k s) = goTo ph k (sendBit s) := by
  rw [sendBit, writeSlot_goTo]
  rfl

theorem sendPosition_goTo (a : Address) (ph : Phase) (k : Nat) (s : State) :
    sendPosition a (goTo ph k s) = goTo ph k (sendPosition a s) := by
  rw [sendPosition, writeSlot_goTo]
  rfl

theorem writeByte_goTo (v : Byte) (ph : Phase) (k : Nat) (s : State) :
    writeByte v (goTo ph k s) = goTo ph k (writeByte v s) := by
  rw [writeByte, writeByte, writeBits_eq_iterate, writeBits_eq_iterate]
  exact iterate_goTo sendBit_goTo 8 ph k (loadShift v s)

theorem readAddressBits_goTo (n : Nat) (ph : Phase) (k : Nat) (s : State) :
    readAddressBits n (goTo ph k s) = goTo ph k (readAddressBits n s) := by
  rw [readAddressBits_eq_iterate, readAddressBits_eq_iterate]
  exact iterate_goTo (fun _ _ _ => rfl) n ph k s

theorem writeAddressBits_goTo (a : Address) (n : Nat) (ph : Phase) (k : Nat) (s : State) :
    writeAddressBits a n (goTo ph k s) = goTo ph k (writeAddressBits a n s) := by
  rw [writeAddressBits_eq_iterate, writeAddressBits_eq_iterate]
  exact iterate_goTo (sendPosition_goTo a) n ph k s

/-- The loop of a byte being written, in the phase its command writes it in: `f` is what comes after the
eighth bit. -/
theorem reaches_writeByte_bits {i : Instr} {ph : Phase} {f : State → State} {s : State} (h : AtSlot i ph s)
    (hs : ¬(i = .search ∧ ph = .bits))
    (hps : ∀ u, AtSlot i ph u → seqPrims u = writePrims (u.shift.getLsbD 0))
    (hafter : ∀ k u, u.seq = ⟨some i, ph, k⟩ →
      afterSlot u = if (shiftOut u).bitIdx = 8 then f (shiftOut u) else goTo ph 0 (shiftOut u))
    (hf : ∀ k u, f (goTo ph k u) = f u) (hbit : s.bitIdx = 0) : Reaches s (f (writeBits 8 s)) := by
  have hkeep (u : State) (hu : AtSlot i ph u) : AtSlot i ph (sendBit u) := by
    obtain ⟨hb, he, ht, hq⟩ := atSlot_writeSlot (u.shift.getLsbD 0) hu
    exact ⟨hb, he, ht, hq⟩
  rw [writeBits_eq_iterate]
  refine reaches_iterate (Q := AtSlot i ph) (counter := State.bitIdx) (limit := 8) (fun u hu => ?_) hkeep
    (fun u => by simp [sendBit, shiftOut, writeSlot_eq]) 7 h (by omega)
  have hslot := reaches_writeSlot hu hs (hps u hu)
  rw [hafter 3 _ ((atSlot_writeSlot _ hu).seq_moved ph 3)] at hslot
  have hshift : shiftOut (goTo ph 3 (writeSlot (u.shift.getLsbD 0) u)) = goTo ph 3 (sendBit u) := rfl
  rwa [hshift, hf, goTo_goTo, (hkeep u hu).goTo_eq] at hslot

theorem reaches_writeByte (v : Byte) (s : State) : Reaches (beginCommand (.writeByte v) s)
    (finish (writeByte v (accept (.writeByte v) s))) :=
  reaches_writeByte_bits (f := finish) (beginCommand_atSlot (.writeByte v) s) (by simp)
    (fun u hu => by simp [seqPrims, hu.seq, firstPhase])
    (fun k u hu => afterSlot_bits (i := .writeByte v) (by rw [hu]) (by rw [hu]; rfl)) (fun _ _ => rfl) rfl

theorem reaches_readByte (s : State) : Reaches (beginCommand .readByte s)
    (finish (storeByte (readByte (accept .readByte s)))) := by
  have hkeep (u : State) (hu : AtSlot .readByte .bits u) : AtSlot .readByte .bits (receiveBit u) := by
    obtain ⟨hb, he, ht, hq⟩ := atSlot_readSlot hu
    exact ⟨hb, he, ht, hq⟩
  rw [readByte, readBits_eq_iterate]
  refine reaches_iterate (Q := AtSlot .readByte .bits) (f := fun u => finish (storeByte u))
    (counter := State.bitIdx) (limit := 8) (fun u hu => ?_) hkeep
    (fun u => by simp [receiveBit, shiftIn, readSlot_eq]) 7 (beginCommand_atSlot .readByte s) rfl
  have hslot := reaches_readSlot hu (by simp) (by simp [seqPrims, hu.seq])
  have hq := (atSlot_readSlot hu).seq_moved .bits 5
  rw [afterSlot_bits (i := .readByte) (congrArg Seq.op hq) rfl] at hslot
  have hshift : shiftIn (goTo .bits 5 (readSlot u)) = goTo .bits 5 (receiveBit u) := rfl
  rw [hshift, goTo_goTo, (hkeep u hu).goTo_eq] at hslot
  exact hslot

/-! ## Commands that begin with a pulse and a command byte -/

/-- Such a command, its command byte, and what it does before its 64 positions. -/
structure RomCommand (i : Instr) (v : Byte) (start : State → State) : Prop where
  pulse : ∀ u, AtSlot i .resetPulse u → seqPrims u = resetPrims
  cmdByte : ∀ u, AtSlot i .cmdByte u → seqPrims u = writePrims (u.shift.getLsbD 0)
  afterPulse : ∀ ph k u, u.seq = ⟨some i, ph, k⟩ → u.latch = false →
    afterPulse u = loadShift v (goTo .cmdByte 0 u)
  afterCmdBit : ∀ ph k u, u.seq = ⟨some i, ph, k⟩ → afterCmdBit u =
    if (shiftOut u).bitIdx = 8 then start (goTo .bits 0 (shiftOut u)) else goTo .cmdByte 0 (shiftOut u)
  start_goTo : ∀ ph k u, start (goTo ph k u) = goTo ph k (start u)
  start_atSlot : ∀ ph u, AtSlot i ph u → AtSlot i ph (start u)

theorem romCommand_search : RomCommand .search wireSearchRom startPositions where
  pulse _ hu := by simp [seqPrims, hu.seq]
  cmdByte _ hu := by simp [seqPrims, hu.seq]
  afterPulse _ _ _ hu hl := by simp [afterPulse, hu, hl]
  afterCmdBit _ _ _ hu := by simp [afterCmdBit, hu]
  start_goTo _ _ _ := rfl
  start_atSlot _ _ hu := ⟨hu.busy, hu.err, hu.timer, hu.seq⟩

theorem romCommand_readAddress : RomCommand .readAddress wireReadRom startAddress where
  pulse _ hu := by simp [seqPrims, hu.seq]
  cmdByte _ hu := by simp [seqPrims, hu.seq]
  afterPulse _ _ _ hu hl := by simp [afterPulse, hu, hl]
  afterCmdBit _ _ _ hu := by simp [afterCmdBit, hu]
  start_goTo _ _ _ := rfl
  start_atSlot _ _ hu := ⟨hu.busy, hu.err, hu.timer, hu.seq⟩

theorem romCommand_select (index : Byte) : RomCommand (.select index) wireMatchRom startAddress where
  pulse _ hu := by simp [seqPrims, hu.seq]
  cmdByte _ hu := by simp [seqPrims, hu.seq]
  afterPulse _ _ _ hu hl := by simp [afterPulse, hu, hl]
  afterCmdBit _ _ _ hu := by simp [afterCmdBit, hu]
  start_goTo _ _ _ := rfl
  start_atSlot _ _ hu := ⟨hu.busy, hu.err, hu.timer, hu.seq⟩

theorem afterPulse_of_silence {s : State} (hl : s.latch = true) : afterPulse s = raise .noPresence s :=
  if_pos hl

theorem resetOrRaise_of_high {s : State} (hl : (resetPulse s).latch = true) :
    resetOrRaise s = .raised .noPresence (resetPulse s) :=
  if_pos hl

theorem resetOrRaise_of_low {s : State} (hl : (resetPulse s).latch = false) :
    resetOrRaise s = .running (resetPulse s) :=
  if_neg (by rw [Bool.not_eq_true]; exact hl)

/-- The pulse and the command byte: the command ends there with NoPresence, or goes on with its positions. -/
theorem reaches_romCommand {i : Instr} {v : Byte} {start : State → State} (hi : RomCommand i v start)
    {s t : State} (h : AtSlot i .resetPulse s)
    (hsilent : (resetPulse s).latch = true → raise .noPresence (resetPulse s) = t)
    (hpresent : (resetPulse s).latch = false →
      AtSlot i .bits (goTo .bits 0 (start (writeByte v (resetPulse s)))) →
      Reaches (goTo .bits 0 (start (writeByte v (resetPulse s)))) t) : Reaches s t := by
  have hpulse := reaches_pulse h (hi.pulse s h)
  have hat : AtSlot i .resetPulse (resetPulse s) := h.runPrims resetPrims
  rw [afterSlot_pulse rfl] at hpulse
  cases hl : (resetPulse s).latch with
  | true =>
    rw [afterPulse_of_silence (s := goTo .resetPulse 5 (resetPulse s)) hl, raise_goTo, hsilent hl] at hpulse
    exact hpulse
  | false =>
    have hload : AtSlot i .resetPulse (loadShift v (resetPulse s)) := ⟨hat.busy, hat.err, hat.timer, hat.seq⟩
    have hbyte := reaches_writeByte_bits (f := fun u => start (goTo .bits 0 u)) (hload.moved .cmdByte) (by simp) hi.cmdByte
      (fun k u hu => (afterSlot_cmdByte (by rw [hu])).trans (hi.afterCmdBit _ k u hu)) (fun _ _ => rfl) rfl
    have hsent : writeBits 8 (goTo .cmdByte 0 (loadShift v (resetPulse s))) =
        goTo .cmdByte 0 (writeByte v (resetPulse s)) := writeByte_goTo v .cmdByte 0 _
    rw [hi.afterPulse _ _ _ (hat.seq_moved .resetPulse 5) hl] at hpulse
    rw [hsent, goTo_goTo, hi.start_goTo] at hbyte
    refine (hpulse.trans hbyte).trans (hpresent hl ?_)
    have hw : AtSlot i .resetPulse (writeByte v (resetPulse s)) := by
      rw [writeByte_eq]
      exact ⟨hat.busy, hat.err, rfl, hat.seq⟩
    exact (hi.start_atSlot _ _ hw).moved .bits

theorem checkAddress_of_valid {s : State} (hv : validAddress s.rom = true) :
    checkAddress s = .running { checkCrcOf s.rom s with registry := [s.rom] } :=
  if_pos hv

theorem checkAddress_of_invalid {s : State} (hv : validAddress s.rom = false) :
    checkAddress s = .raised .addressCrcMismatch (checkCrcOf s.rom s) :=
  if_neg (by rw [Bool.not_eq_true]; exact hv)

theorem settle_checkAddress_goTo (ph : Phase) (k : Nat) (s : State) :
    (checkAddress (goTo ph k s)).settle = (checkAddress s).settle := by
  cases hv : validAddress s.rom with
  | true => rw [checkAddress_of_valid hv, checkAddress_of_valid (s := goTo ph k s) hv]; rfl
  | false => rw [checkAddress_of_invalid hv, checkAddress_of_invalid (s := goTo ph k s) hv]; rfl

theorem reaches_readAddress (s : State) : Reaches (beginCommand .readAddress s)
    ((resetOrRaise (clearRom (accept .readAddress s))).andThen fun t =>
      checkAddress (readAddressBits 64 (startAddress (writeByte wireReadRom t)))).settle := by
  refine reaches_romCommand romCommand_readAddress (beginCommand_atSlot .readAddress s)
    (fun hl => ?_) (fun hl hat => ?_)
  · rw [resetOrRaise_of_high (s := clearRom (accept .readAddress s)) hl]; rfl
  have hkeep (u : State) (hu : AtSlot .readAddress .bits u) : AtSlot .readAddress .bits (receivePosition u) := by
    obtain ⟨hb, he, ht, hq⟩ := atSlot_readSlot hu
    exact ⟨hb, he, ht, hq⟩
  rw [resetOrRaise_of_low (s := clearRom (accept .readAddress s)) hl, andThen_running,
    ← settle_checkAddress_goTo .bits 0, ← readAddressBits_goTo, readAddressBits_eq_iterate]
  refine reaches_iterate (Q := AtSlot .readAddress .bits) (f := fun u => (checkAddress u).settle)
    (counter := State.bitPos) (limit := 64) (fun u hu => ?_) hkeep
    (fun u => by simp [receivePosition, storeRomBit, readSlot_eq]) 63 hat rfl
  have hslot := reaches_readSlot hu (by simp) (by simp [seqPrims, hu.seq])
  have hq := (atSlot_readSlot hu).seq_moved .bits 5
  rw [afterSlot_bits (i := .readAddress) (congrArg Seq.op hq) rfl] at hslot
  have hstore : storeRomBit (goTo .bits 5 (readSlot u)) = goTo .bits 5 (receivePosition u) := rfl
  rw [hstore, goTo_goTo, (hkeep u hu).goTo_eq, settle_checkAddress_goTo] at hslot
  exact hslot

theorem reaches_select {index : Byte} {s : State} {a : Address} (ha : lookup index s = some a) :
    Reaches (beginCommand (.select index) s)
      ((resetOrRaise (accept (.select index) s)).andThen fun t =>
        .running (writeAddressBits a 64 (startAddress (writeByte wireMatchRom t)))).settle := by
  refine reaches_romCommand (romCommand_select index) (beginCommand_atSlot (.select index) s)
    (fun hl => ?_) (fun hl hat => ?_)
  · rw [resetOrRaise_of_high (s := accept (.select index) s) hl]; rfl
  have hkeep (u : State) (hu : AtSlot (.select index) .bits u ∧ lookup index u = some a) :
      AtSlot (.select index) .bits (sendPosition a u) ∧ lookup index (sendPosition a u) = some a := by
    obtain ⟨hb, he, ht, hq⟩ := atSlot_writeSlot (bitAt a u.bitPos) hu.1
    refine ⟨⟨hb, he, ht, hq⟩, ?_⟩
    rw [sendPosition, writeSlot_eq]
    exact hu.2
  have hentry : lookup index (goTo .bits 0 (startAddress (writeByte wireMatchRom
      (resetPulse (accept (.select index) s))))) = some a := by
    rw [writeByte_eq, resetPulse_eq]
    exact ha
  rw [resetOrRaise_of_low (s := accept (.select index) s) hl, andThen_running, settle_running,
    ← finish_goTo .bits 0, ← writeAddressBits_goTo, writeAddressBits_eq_iterate]
  refine reaches_iterate (Q := fun u => AtSlot (.select index) .bits u ∧ lookup index u = some a) (f := finish)
    (counter := State.bitPos) (limit := 64) (fun u hu => ?_) hkeep
    (fun u => by simp [sendPosition, nextPosition, writeSlot_eq]) 63 ⟨hat, hentry⟩ rfl
  have hslot := reaches_writeSlot (b := bitAt a u.bitPos) hu.1 (by simp)
    (by simp [seqPrims, hu.1.seq, selectPrims, hu.2])
  have hq := (atSlot_writeSlot (bitAt a u.bitPos) hu.1).seq_moved .bits 3
  rw [afterSlot_bits (i := .select index) (congrArg Seq.op hq) rfl] at hslot
  have hnext : nextPosition (goTo .bits 3 (writeSlot (bitAt a u.bitPos) u)) =
      goTo .bits 3 (sendPosition a u) := rfl
  rw [hnext, goTo_goTo, (hkeep u hu).1.goTo_eq, finish_goTo] at hslot
  exact hslot

end Sys2Proof.Machine
end

section
/-! PROOFS. Family other, the sequencer continued: SEARCH (R173 to R187), and all commands together. -/

namespace Sys2Proof.Machine

/-! ## One position of SEARCH: three slots -/

theorem seqPrims_position {s : State} {k : Nat} (h : s.seq = ⟨some .search, .bits, k⟩) :
    seqPrims s = readPrims ++ readPrims ++ writePrims (chosenBit s) := by
  simp [seqPrims, h]

theorem afterPrim_position {s : State} {k : Nat} (h : s.seq = ⟨some .search, .bits, k⟩) :
    afterPrim s = afterSearchPrim (k + 1) s := by
  simp [afterPrim, h]

theorem length_writePrims (b : Bool) : (writePrims b).length = 4 := by
  cases b <;> rfl

/-- One of the three slots of a position, `k` primitives into it. -/
theorem reaches_positionSlot {s : State} {k : Nat} {qs : List Prim} (hw : UnderWay s)
    (h : s.seq = ⟨some .search, .bits, k⟩) (hne : qs ≠ [])
    (hqs : ∀ j < qs.length, (readPrims ++ readPrims ++ writePrims (chosenBit s))[k + j]? = qs[j]?)
    (hlegal : primsLegal s.dqOe qs = true)
    (hin : ∀ j, j + 1 < qs.length → k + j + 1 ≠ 6 ∧ k + j + 1 ≠ 12 ∧ k + j + 1 ≠ 16) :
    Reaches s (afterSearchPrim (k + qs.length) (goTo .bits (k + (qs.length - 1)) (runPrims qs s))) := by
  have hpos : 0 < qs.length := List.length_pos_iff.mpr hne
  have hrun := reaches_prims hw hne (by rw [seqPrims_position h, h]; exact hqs) hlegal (fun u j hu _ hj => ?_)
  · rw [h, afterPrim_position (k := k + (qs.length - 1)) (by simp [goTo, seq_runPrims, h])] at hrun
    have hk : k + (qs.length - 1) + 1 = k + qs.length := by omega
    rwa [hk] at hrun
  · rw [h] at hu ⊢
    obtain ⟨h6, h12, h16⟩ := hin j hj
    rw [afterPrim_position hu, afterSearchPrim, if_neg h6, if_neg h12, if_neg h16]

/-- What the sequencer does after a position (R185 to R187): `afterSearchPosition` once the chosen bit is
stored. -/
def afterPosition (t : State) : State :=
  if t.bitPos = 64 then
    match appendCandidate t with
    | .raised e u => raise e u
    | .running u => if u.lastFork = 0 then finish u else goTo .resetPulse 0 u
  else goTo .bits 0 t

theorem afterSearchPosition_eq (s : State) : afterSearchPosition s = afterPosition (storeChosen s) := rfl

theorem discoveryPair_goTo (ph : Phase) (k : Nat) (s : State) :
    discoveryPair (goTo ph k s) = goTo ph k (discoveryPair s) := rfl

theorem recordZero_goTo (ph : Phase) (k : Nat) (s : State) :
    recordZero (goTo ph k s) = goTo ph k (recordZero s) := by
  rw [recordZero_eq, recordZero_eq]
  rfl

theorem chosenBit_goTo (ph : Phase) (k : Nat) (s : State) : chosenBit (goTo ph k s) = chosenBit s := rfl

theorem storeChosen_goTo (ph : Phase) (k : Nat) (s : State) :
    storeChosen (goTo ph k s) = goTo ph k (storeChosen s) := rfl

theorem searchPosition_of_silent {s : State} (h : silentPair (discoveryPair s) = true) :
    searchPosition s = .raised .noPresence (discoveryPair s) :=
  if_pos h

/-- The position's state after its pair and its write slot. -/
def positionEnd (s : State) : State :=
  storeChosen (writeSlot (chosenBit (recordZero (discoveryPair s))) (recordZero (discoveryPair s)))

theorem searchPosition_of_answer {s : State} (h : silentPair (discoveryPair s) = false) :
    searchPosition s = .running (positionEnd s) :=
  if_neg (by rw [Bool.not_eq_true]; exact h)

theorem positionEnd_goTo (ph : Phase) (k : Nat) (s : State) :
    positionEnd (goTo ph k s) = goTo ph k (positionEnd s) := by
  rw [positionEnd, discoveryPair_goTo, recordZero_goTo, chosenBit_goTo, writeSlot_goTo, storeChosen_goTo,
    positionEnd]

theorem afterSearchPrim_six (s : State) :
    afterSearchPrim 6 (goTo .bits 5 s) = goTo .bits 6 (latchId s) := rfl

theorem afterSearchPrim_twelve (s : State) : afterSearchPrim 12 (goTo .bits 11 s) =
    if silentPair (latchCmp s) then raise .noPresence (latchCmp s)
    else goTo .bits 12 (recordZero (latchCmp s)) := by
  have hcmp : latchCmp (goTo .bits 11 s) = goTo .bits 11 (latchCmp s) := rfl
  have hsilent : silentPair (goTo .bits 11 (latchCmp s)) = silentPair (latchCmp s) := rfl
  simp only [afterSearchPrim, hcmp, hsilent, recordZero_goTo, goTo_goTo, raise_goTo]
  rfl

theorem afterSearchPrim_sixteen (s : State) :
    afterSearchPrim 16 (goTo .bits 15 s) = afterPosition (goTo .bits 15 (storeChosen s)) := rfl

/-- The first read slot of a pair (R175). -/
theorem reaches_firstRead {s : State} (h : AtSlot .search .bits s) :
    Reaches s (goTo .bits 6 (latchId (readSlot s))) := by
  rw [← afterSearchPrim_six]
  exact reaches_positionSlot h.underWay h.seq (qs := readPrims) (by simp [readPrims])
    (fun j hj => by rw [Nat.zero_add, List.append_assoc, List.getElem?_append_left hj])
    (by cases s.dqOe <;> rfl)
    (fun j hj => by simp only [readPrims, List.length_cons, List.length_nil] at hj; omega)

theorem atSlot_latchId {ph : Phase} {s : State} (h : AtSlot .search ph s) :
    AtSlot .search ph (latchId s) :=
  ⟨h.busy, h.err, h.timer, h.seq⟩

/-- The second one. -/
theorem reaches_secondRead {s : State} (h : AtSlot .search .bits s) :
    Reaches (goTo .bits 6 s) (afterSearchPrim 12 (goTo .bits 11 (readSlot s))) := by
  have hrun := reaches_positionSlot (s := goTo .bits 6 s) (h.underWay.moved _ _)
    (h.seq_moved .bits 6) (qs := readPrims) (by simp [readPrims])
    (fun j hj => by
      rw [List.append_assoc, List.getElem?_append_right (by simp [readPrims]),
        List.getElem?_append_left (by simpa [readPrims] using hj)]
      simp [readPrims])
    (by cases s.dqOe <;> rfl)
    (fun j hj => by simp only [readPrims, List.length_cons, List.length_nil] at hj; omega)
  rw [runPrims_goTo, goTo_goTo] at hrun
  exact hrun

theorem reaches_pair {s : State} (h : AtSlot .search .bits s) :
    Reaches s (if silentPair (discoveryPair s) then raise .noPresence (discoveryPair s)
      else goTo .bits 12 (recordZero (discoveryPair s))) := by
  have hsecond := reaches_secondRead (atSlot_latchId (atSlot_readSlot h))
  rw [afterSearchPrim_twelve] at hsecond
  exact (reaches_firstRead h).trans hsecond

theorem atSlot_discoveryPair {ph : Phase} {s : State} (h : AtSlot .search ph s) :
    AtSlot .search ph (recordZero (discoveryPair s)) := by
  have hpair : AtSlot .search ph (discoveryPair s) := by
    rw [discoveryPair_eq]
    exact ⟨h.busy, h.err, rfl, h.seq⟩
  rw [recordZero_eq]
  exact ⟨hpair.busy, hpair.err, hpair.timer, hpair.seq⟩

theorem atSlot_positionEnd {ph : Phase} {s : State} (h : AtSlot .search ph s) :
    AtSlot .search ph (positionEnd s) := by
  obtain ⟨hb, he, ht, hq⟩ := atSlot_writeSlot (chosenBit (recordZero (discoveryPair s))) (atSlot_discoveryPair h)
  exact ⟨hb, he, ht, hq⟩

/-- The write slot of a position (R181), once its pair has been answered. -/
theorem reaches_choice {s : State} (h : AtSlot .search .bits s) :
    Reaches (goTo .bits 12 (recordZero (discoveryPair s))) (afterPosition (goTo .bits 15 (positionEnd s))) := by
  have hat := atSlot_discoveryPair h
  have hrun := reaches_positionSlot (s := goTo .bits 12 (recordZero (discoveryPair s)))
    (hat.underWay.moved _ _) (hat.seq_moved .bits 12)
    (qs := writePrims (chosenBit (recordZero (discoveryPair s))))
    (List.length_pos_iff.mp (by rw [length_writePrims]; omega))
    (fun j _ => by
      rw [chosenBit_goTo, List.getElem?_append_right (by simp [readPrims])]
      simp [readPrims])
    (by cases chosenBit (recordZero (discoveryPair s)) <;> rfl)
    (fun j hj => by rw [length_writePrims] at hj; omega)
  rw [length_writePrims, runPrims_goTo, goTo_goTo] at hrun
  have hstore : goTo .bits 15 (positionEnd s) = goTo .bits 15 (storeChosen
      (runPrims (writePrims (chosenBit (recordZero (discoveryPair s)))) (recordZero (discoveryPair s)))) := rfl
  rw [hstore, ← afterSearchPrim_sixteen]
  exact hrun

theorem reaches_position_of_silent {s : State} (h : AtSlot .search .bits s)
    (hp : silentPair (discoveryPair s) = true) : Reaches s (raise .noPresence (discoveryPair s)) := by
  have hpair := reaches_pair h
  rwa [hp, if_pos rfl] at hpair

theorem reaches_position_of_answer {s : State} (h : AtSlot .search .bits s)
    (hp : silentPair (discoveryPair s) = false) :
    Reaches s (afterPosition (goTo .bits 15 (positionEnd s))) := by
  have hpair := reaches_pair h
  rw [hp, if_neg Bool.false_ne_true] at hpair
  exact hpair.trans (reaches_choice h)

/-! ## The positions of a pass, and its end -/

/-- What a pass leaves behind: the command is over, or a further pass begins (R187). -/
def afterPass : Progress → State
  | .raised e u => raise e u
  | .running u => if u.lastFork = 0 then finish u else goTo .resetPulse 0 u

theorem appendCandidate_goTo (ph : Phase) (k : Nat) (s : State) :
    afterPass (appendCandidate (goTo ph k s)) = afterPass (appendCandidate s) := by
  rcases appendCandidate_cases s with ⟨hfull, he⟩ | ⟨hfree, he⟩
  · have hgo : appendCandidate (goTo ph k s) = .raised .registryFull (goTo ph k s) := if_pos hfull
    rw [he, hgo]
    rfl
  · have hgo : appendCandidate (goTo ph k s) =
        .running { goTo ph k s with registry := s.registry ++ [s.rom], lastFork := s.lastZero } := if_neg hfree
    rw [he, hgo]
    rfl

theorem afterPosition_last {s : State} (h : s.bitPos = 64) :
    afterPosition s = afterPass (appendCandidate s) :=
  (if_pos h).trans (by cases appendCandidate s <;> rfl)

theorem afterPosition_more {s : State} (h : s.bitPos ≠ 64) : afterPosition s = goTo .bits 0 s :=
  if_neg h

theorem positionEnd_bitPos (s : State) : (positionEnd s).bitPos = s.bitPos + 1 := by
  simp [positionEnd, storeChosen, writeSlot_eq, recordZero_eq, discoveryPair_eq]

theorem reaches_positions (n : Nat) {s : State} (h : AtSlot .search .bits s) (hn : s.bitPos + (n + 1) = 64) :
    Reaches s (afterPass ((searchPositions (n + 1) s).andThen appendCandidate)) := by
  induction n generalizing s with
  | zero =>
    cases hp : silentPair (discoveryPair s) with
    | true =>
      rw [searchPositions, searchPosition_of_silent hp]
      exact reaches_position_of_silent h hp
    | false =>
      have hpos := reaches_position_of_answer h hp
      have hlast : (goTo .bits 15 (positionEnd s)).bitPos = 64 := (positionEnd_bitPos s).trans hn
      rw [afterPosition_last hlast, appendCandidate_goTo] at hpos
      rw [searchPositions, searchPosition_of_answer hp]
      exact hpos
  | succ n ih =>
    cases hp : silentPair (discoveryPair s) with
    | true =>
      rw [searchPositions, searchPosition_of_silent hp]
      exact reaches_position_of_silent h hp
    | false =>
      have hpos := reaches_position_of_answer h hp
      have hb := positionEnd_bitPos s
      have hmore : (goTo .bits 15 (positionEnd s)).bitPos ≠ 64 := by
        show (positionEnd s).bitPos ≠ 64
        omega
      rw [afterPosition_more hmore, goTo_goTo, (atSlot_positionEnd h).goTo_eq] at hpos
      rw [searchPositions, searchPosition_of_answer hp]
      exact hpos.trans (ih (atSlot_positionEnd h) (by omega))

/-- Where the sequencer stands does not show in a pass: its end is the same. -/
theorem afterPass_searchPositions_goTo (n : Nat) (ph : Phase) (k : Nat) (s : State) :
    afterPass ((searchPositions n (goTo ph k s)).andThen appendCandidate) =
      afterPass ((searchPositions n s).andThen appendCandidate) := by
  induction n generalizing s with
  | zero => exact appendCandidate_goTo ph k s
  | succ n ih =>
    cases hp : silentPair (discoveryPair s) with
    | true =>
      rw [searchPositions, searchPositions, searchPosition_of_silent hp,
        searchPosition_of_silent (s := goTo ph k s) hp]
      rfl
    | false =>
      rw [searchPositions, searchPositions, searchPosition_of_answer hp,
        searchPosition_of_answer (s := goTo ph k s) hp, positionEnd_goTo]
      exact ih _

theorem reaches_pass {s : State} (h : AtSlot .search .resetPulse s) :
    Reaches s (afterPass (searchPass s)) := by
  refine reaches_romCommand romCommand_search h (fun hl => ?_) (fun hl hat => ?_)
  · rw [searchPass, resetOrRaise_of_high hl]
    rfl
  · rw [searchPass, resetOrRaise_of_low hl, andThen_running,
      ← afterPass_searchPositions_goTo 64 .bits 0]
    exact reaches_positions 63 hat rfl

/-! ## All passes -/

theorem positionEnd_registry (s : State) : (positionEnd s).registry = s.registry := by
  simp [positionEnd, storeChosen, writeSlot_eq, recordZero_eq, discoveryPair_eq]

/-- The 64 positions of a pass leave the registry alone, and the sequencer at a slot's start. -/
theorem searchPositions_running {n : Nat} {ph : Phase} {s t : State} (h : searchPositions n s = .running t)
    (hat : AtSlot .search ph s) : t.registry = s.registry ∧ AtSlot .search ph t := by
  induction n generalizing s with
  | zero =>
    cases h
    exact ⟨rfl, hat⟩
  | succ n ih =>
    cases hp : silentPair (discoveryPair s) with
    | true =>
      rw [searchPositions, searchPosition_of_silent hp] at h
      cases h
    | false =>
      rw [searchPositions, searchPosition_of_answer hp] at h
      obtain ⟨hreg, ht⟩ := ih h (atSlot_positionEnd hat)
      exact ⟨hreg.trans (positionEnd_registry s), ht⟩

/-- A pass that runs to its end appends one entry, to a registry that was not full (R185, R186). -/
theorem searchPass_running {s t : State} (h : searchPass s = .running t)
    (hat : AtSlot .search .resetPulse s) : regCount s ≠ s.regDepth ∧ regCount t = regCount s + 1 ∧
      t.regDepth = s.regDepth ∧ AtSlot .search .resetPulse t := by
  have hdepth : t.regDepth = s.regDepth := by
    have := hostSide_searchPass s
    rw [h] at this
    exact congrArg (fun x => x.2.2.1) this
  rw [searchPass, andThen_eq_running_iff] at h
  obtain ⟨u, hu, h⟩ := h
  rw [andThen_eq_running_iff] at h
  obtain ⟨v, hv, h⟩ := h
  have hu' : u = resetPulse s := by
    rw [resetOrRaise_eq] at hu
    split at hu
    · cases hu
    · cases hu; rfl
  have hstart : AtSlot .search .resetPulse (startPositions (writeByte wireSearchRom u)) := by
    rw [hu', writeByte_eq, resetPulse_eq]
    exact ⟨hat.busy, hat.err, rfl, hat.seq⟩
  obtain ⟨hreg, hv'⟩ := searchPositions_running hv hstart
  have hregv : v.registry = s.registry := by
    rw [hreg, hu', writeByte_eq, resetPulse_eq]
    rfl
  rcases appendCandidate_cases v with ⟨_, he⟩ | ⟨hfree, he⟩
  · rw [he] at h
    cases h
  · rw [he] at h
    cases h
    refine ⟨?_, by simp [regCount, hregv], hdepth, ⟨hv'.busy, hv'.err, hv'.timer, hv'.seq⟩⟩
    rw [← hdepth, regCount, ← hregv]
    exact hfree

theorem afterPass_running_of_done {t : State} (h : t.lastFork = 0) : afterPass (.running t) = finish t :=
  if_pos h

theorem afterPass_running_of_fork {t : State} (h : t.lastFork ≠ 0) :
    afterPass (.running t) = goTo .resetPulse 0 t :=
  if_neg h

/-- `free` is the room left in the registry: a pass that finds none raises, so no pass is missing at the
end (R194). -/
theorem reaches_passes (free : Nat) {s : State} (h : AtSlot .search .resetPulse s)
    (hfree : regCount s + free = s.regDepth) : Reaches s (searchPasses free s).settle := by
  induction free generalizing s with
  | zero =>
    have hpass := reaches_pass h
    rw [searchPasses]
    cases hp : searchPass s with
    | raised e u => rwa [hp] at hpass
    | running u => exact absurd hfree (searchPass_running hp h).1
  | succ free ih =>
    have hpass := reaches_pass h
    rw [searchPasses]
    cases hp : searchPass s with
    | raised e u => rwa [hp] at hpass
    | running u =>
      obtain ⟨_, hcount, hdepth, hu⟩ := searchPass_running hp h
      rw [hp] at hpass
      rw [andThen_running]
      by_cases hfork : u.lastFork = 0
      · rw [afterPass_running_of_done hfork] at hpass
        rw [if_pos hfork]
        exact hpass
      · rw [afterPass_running_of_fork hfork, hu.goTo_eq] at hpass
        rw [if_neg hfork]
        exact hpass.trans (ih hu (by rw [hcount, hdepth]; omega))

theorem reaches_search (s : State) : Reaches (beginCommand .search s)
    (searchPasses s.regDepth (startSearch (accept .search s))).settle :=
  reaches_passes s.regDepth (beginCommand_atSlot .search s) (Nat.zero_add _)

/-! ## Every command -/

/-- A command that takes time reaches what its meaning gives, from its first cycle on. -/
theorem exists_reaches_exec {i : Instr} {s : State} (hz : zeroTime i s = false) :
    ∃ t, exec i s = .next t ∧ Reaches (beginCommand i s) t := by
  cases i with
  | reset => exact ⟨_, rfl, reaches_reset s⟩
  | writeBit operand => exact ⟨_, rfl, reaches_writeBit operand s⟩
  | readBit => exact ⟨_, rfl, reaches_readBit s⟩
  | writeByte v => exact ⟨_, rfl, reaches_writeByte v s⟩
  | readByte => exact ⟨_, rfl, reaches_readByte s⟩
  | search => exact ⟨_, rfl, reaches_search s⟩
  | readAddress => exact ⟨_, rfl, reaches_readAddress s⟩
  | select index =>
    obtain ⟨a, ha⟩ : ∃ a, lookup index s = some a := by
      cases hl : lookup index s with
      | none => simp [zeroTime, hl] at hz
      | some a => exact ⟨a, rfl⟩
    exact ⟨_, exec_select_of_lookup_eq_some ha, reaches_select ha⟩
  | crcInit | crcByte v | crcCheck v | crcAddr index => cases hz

/-- Settles O47: `exists_reaches_exec`. -/
theorem smallStepsReachTheCommandsEnd : Obligations.SmallStepsReachTheCommandsEnd := by
  unfold Obligations.SmallStepsReachTheCommandsEnd
  intro i s hz
  obtain ⟨t, ht, n, hn, hbefore⟩ := exists_reaches_exec hz
  exact ⟨n, hn.trans ht.symm, hbefore⟩

end Sys2Proof.Machine
end

section
/-! PROOFS. Family other, the invariant (R9, R22, R28, R31, R34 to R41, R240): it holds after reset, every
step keeps it, and under it no step faults. -/

namespace Sys2Proof.Machine

/-! ## The invariant, part by part -/

/-- The widths and ranges of the invariant, without `TIMER` and the sequencer's position. -/
def Ranges (s : State) : Prop :=
  (1 ≤ s.regDepth ∧ s.regDepth ≤ 256) ∧ regCount s ≤ s.regDepth ∧ (s.err ≠ 3 ∧ s.err ≠ 7) ∧
  (s.lastZero ≤ 64 ∧ s.lastFork ≤ 64) ∧ s.bitPos ≤ 64 ∧ s.bitIdx ≤ 8

/-- `ERR` = 0 is neither of the codes the core never shows (R240, U17). -/
theorem zero_ne_three_and_seven : (0 : BitVec 3) ≠ 3 ∧ (0 : BitVec 3) ≠ 7 := by decide

theorem inv_iff {s : State} : Inv s ↔ Ranges s ∧ s.timer ≤ 480 ∧ (Idle s ∨ Running s) := by
  constructor
  · intro h
    exact ⟨⟨⟨h.depth_pos, h.depth_le⟩, h.count, ⟨h.err_ne_three, h.err_ne_seven⟩, ⟨h.lastZero, h.lastFork⟩,
      h.bitPos, h.bitIdx⟩, h.timer, h.position⟩
  · rintro ⟨⟨⟨hd, hd'⟩, hc, ⟨he, he'⟩, ⟨hz, hf⟩, hp, hb⟩, ht, hpos⟩
    exact ⟨hd, hd', hc, he, he', hz, hf, hp, hb, ht, hpos⟩

/-- What only the host's accesses write does not show in the invariant. -/
theorem Inv.hostUpdate {s : State} (h : Inv s) (ovr : Bool) (regIndex : Byte) (inputs : List HostInput)
    (hostData : HostWord) (freeReads : Nat) :
    Inv { s with ovr := ovr, regIndex := regIndex, inputs := inputs, hostData := hostData
                 freeReads := freeReads } := by
  obtain ⟨hr, ht, hpos⟩ := inv_iff.mp h
  refine inv_iff.mpr ⟨hr, ht, hpos.imp (fun hi => ⟨hi.busy, hi.seq, hi.dqOe, hi.timer⟩) (fun hrun => ?_)⟩
  exact ⟨hrun.busy, hrun.err, hrun.position, hrun.dqOe, hrun.timer, hrun.byteBits, hrun.dataBits, hrun.index⟩

/-- Settles O44: R42's values, and the core is idle. -/
theorem resetMeetsTheInvariant : Obligations.ResetMeetsTheInvariant := by
  unfold Obligations.ResetMeetsTheInvariant
  exact inv_iff.mpr ⟨by unfold Ranges; decide, by decide, .inl ⟨rfl, rfl, rfl, rfl⟩⟩

/-- The counters a position of a running command relies on (R37, R39), and SELECT's index (R69). -/
def Counters (i : Instr) (ph : Phase) (s : State) : Prop :=
  (s.bitIdx < 8 ∨ ph = .resetPulse ∨ ph = .bits) ∧
  (ph = .bits → (∀ v, i = .writeByte v → s.bitIdx < 8) ∧ (i = .readByte → s.bitIdx < 8) ∧
    (i = .search → s.bitPos < 64) ∧ (i = .readAddress → s.bitPos < 64) ∧
    (∀ k, i = .select k → s.bitPos < 64)) ∧
  (∀ k, i = .select k → k.toNat < regCount s)

theorem Running.counters {s : State} {i : Instr} (h : Running s) (hop : s.seq.op = some i) :
    Counters i s.seq.phase s :=
  ⟨h.byteBits, h.dataBits i hop, fun k hk => h.index k (hk ▸ hop)⟩

theorem running_of_counters {s : State} {i : Instr} (hop : s.seq.op = some i) (hb : s.busy = true)
    (he : s.err = 0) (ht : s.timer = 0) (hpos : s.seq.slot < (seqPrims s).length)
    (hd : s.dqOe = drivenAfter ((seqPrims s).take s.seq.slot)) (hc : Counters i s.seq.phase s) : Running s where
  busy := hb
  err := he
  position := hpos
  dqOe := hd
  timer := ht ▸ Nat.zero_le _
  byteBits := hc.1
  dataBits j hj := by
    cases hop.symm.trans hj
    exact hc.2.1
  index k hk := by
    cases hop.symm.trans hk
    exact hc.2.2 k rfl

theorem inv_finish {t : State} (hr : Ranges t) (ht : t.timer = 0) (hd : t.dqOe = false) : Inv (finish t) := by
  have htimer : (finish t).timer = 0 := ht
  exact inv_iff.mpr ⟨hr, by omega, .inl ⟨rfl, rfl, hd, ht⟩⟩

/-- An error of the core's own ends a command (R240: code 3 is host software's, 7 is none's). -/
theorem inv_raise {e : ErrorKind} {t : State} (he : e ≠ .scratchpadCrcMismatch) (hr : Ranges t)
    (ht : t.timer = 0) (hd : t.dqOe = false) : Inv (raise e t) := by
  obtain ⟨hdepth, hcount, _, hrest⟩ := hr
  have hcode : e.code ≠ 3 ∧ e.code ≠ 7 := by
    cases e with
    | scratchpadCrcMismatch => exact absurd rfl he
    | noPresence | addressCrcMismatch | illegalCommand | badIndex | registryFull => decide
  have htimer : (raise e t).timer = 0 := ht
  exact inv_iff.mpr ⟨⟨hdepth, hcount, hcode, hrest⟩, by omega, .inl ⟨rfl, rfl, hd, ht⟩⟩

/-! ## The primitives a slot can consist of -/

/-- Every list of primitives `SLOT` counts through. -/
def slotPrims : List (List Prim) :=
  [resetPrims, readPrims, writePrims true, writePrims false, readPrims ++ readPrims ++ writePrims true,
   readPrims ++ readPrims ++ writePrims false]

theorem writePrims_mem (b : Bool) : writePrims b ∈ slotPrims := by
  cases b <;> decide

theorem positionPrims_mem (b : Bool) : readPrims ++ readPrims ++ writePrims b ∈ slotPrims := by
  cases b <;> decide

/-- Where a running command can stand: the phases each command goes through (R40). -/
inductive Stands : Instr → Phase → Prop
  | reset : Stands .reset .resetPulse
  | search (ph : Phase) : ph ≠ .done → Stands .search ph
  | readAddress (ph : Phase) : ph ≠ .done → Stands .readAddress ph
  | select (index : Byte) (ph : Phase) : ph ≠ .done → Stands (.select index) ph
  | writeBit (operand : Byte) : Stands (.writeBit operand) .bits
  | readBit : Stands .readBit .bits
  | writeByte (v : Byte) : Stands (.writeByte v) .bits
  | readByte : Stands .readByte .bits

/-- Where `SLOT` counts at all, the command stands in one of its phases, and the primitives are one of the
lists above. -/
theorem seqPrims_of_ne_nil {s : State} (h : seqPrims s ≠ []) :
    (∃ i, s.seq.op = some i ∧ Stands i s.seq.phase) ∧ seqPrims s ∈ slotPrims := by
  revert h
  unfold seqPrims
  split
  case h_15 => exact fun h => absurd rfl h
  all_goals
    rename_i hop hph
    rw [hph]
    intro h
  case h_1 => exact ⟨⟨_, hop, .reset⟩, by decide⟩
  case h_2 => exact ⟨⟨_, hop, .search _ (by decide)⟩, by decide⟩
  case h_3 => exact ⟨⟨_, hop, .readAddress _ (by decide)⟩, by decide⟩
  case h_4 => exact ⟨⟨_, hop, .select _ _ (by decide)⟩, by decide⟩
  case h_5 => exact ⟨⟨_, hop, .search _ (by decide)⟩, writePrims_mem _⟩
  case h_6 => exact ⟨⟨_, hop, .readAddress _ (by decide)⟩, writePrims_mem _⟩
  case h_7 => exact ⟨⟨_, hop, .select _ _ (by decide)⟩, writePrims_mem _⟩
  case h_8 => exact ⟨⟨_, hop, .writeBit _⟩, writePrims_mem _⟩
  case h_9 => exact ⟨⟨_, hop, .readBit⟩, by decide⟩
  case h_10 => exact ⟨⟨_, hop, .writeByte _⟩, writePrims_mem _⟩
  case h_11 => exact ⟨⟨_, hop, .readByte⟩, by decide⟩
  case h_12 => exact ⟨⟨_, hop, .search _ (by decide)⟩, positionPrims_mem _⟩
  case h_13 => exact ⟨⟨_, hop, .readAddress _ (by decide)⟩, by decide⟩
  case h_14 =>
    refine ⟨⟨_, hop, .select _ _ (by decide)⟩, ?_⟩
    unfold selectPrims at h ⊢
    split
    · exact writePrims_mem _
    · simp_all

theorem readPrims_ne_nil : readPrims ≠ [] := List.cons_ne_nil _ _

theorem writePrims_ne_nil (b : Bool) : writePrims b ≠ [] :=
  List.ne_nil_of_length_pos (by rw [length_writePrims]; omega)

theorem seqPrims_ne_nil {i : Instr} {ph : Phase} {k : Nat} {s : State} (hst : Stands i ph)
    (hq : s.seq = ⟨some i, ph, k⟩) (hindex : ∀ j, i = .select j → j.toNat < regCount s) :
    seqPrims s ≠ [] := by
  unfold seqPrims
  rw [hq]
  cases hst with
  | reset => exact List.cons_ne_nil _ _
  | writeBit operand => exact writePrims_ne_nil _
  | readBit => exact readPrims_ne_nil
  | writeByte v => exact writePrims_ne_nil _
  | readByte => exact readPrims_ne_nil
  | search ph hph =>
    cases ph with
    | resetPulse => exact List.cons_ne_nil _ _
    | cmdByte => exact writePrims_ne_nil _
    | bits => exact List.append_ne_nil_of_left_ne_nil (List.append_ne_nil_of_left_ne_nil readPrims_ne_nil _) _
    | done => exact absurd rfl hph
  | readAddress ph hph =>
    cases ph with
    | resetPulse => exact List.cons_ne_nil _ _
    | cmdByte => exact writePrims_ne_nil _
    | bits => exact readPrims_ne_nil
    | done => exact absurd rfl hph
  | select index ph hph =>
    cases ph with
    | resetPulse => exact List.cons_ne_nil _ _
    | cmdByte => exact writePrims_ne_nil _
    | bits =>
      obtain ⟨a, ha⟩ := Option.isSome_iff_exists.mp ((lookup_isSome_iff index s).mpr (hindex index rfl))
      simp only [selectPrims, ha]
      exact writePrims_ne_nil _
    | done => exact absurd rfl hph

/-- The start of a slot: the pin is released. -/
theorem inv_slotStart {t : State} {i : Instr} {ph : Phase} (hr : Ranges t) (hst : Stands i ph)
    (hop : t.seq.op = some i) (hb : t.busy = true) (he : t.err = 0) (ht : t.timer = 0) (hd : t.dqOe = false)
    (hc : Counters i ph t) : Inv (goTo ph 0 t) := by
  have htimer : (goTo ph 0 t).timer = 0 := ht
  have hne : seqPrims (goTo ph 0 t) ≠ [] := seqPrims_ne_nil (k := 0) hst (by simp [goTo, hop]) hc.2.2
  exact inv_iff.mpr ⟨hr, by omega, .inr (running_of_counters (i := i) hop hb he ht
    (List.length_pos_iff.mpr hne) hd hc)⟩

theorem drivenAfter_apply {s : State} {ps : List Prim} (p : Prim) (h : s.dqOe = drivenAfter ps) :
    (p.apply s).dqOe = drivenAfter (ps ++ [p]) := by
  cases p with
  | driveLow | release => simp [drivenAfter, Prim.apply]
  | wait n | sample => simpa [drivenAfter, Prim.apply] using h

/-- A slot samples only while the pin is released, and ends with the pin released (00_scope.md section 7,
R31). -/
theorem slotPrims_released : ∀ ps ∈ slotPrims, drivenAfter ps = false ∧
    ∀ k < ps.length, ps[k]? = some .sample → drivenAfter (ps.take k) = false := by
  decide +kernel

theorem slotPrims_timer : ∀ ps ∈ slotPrims, ∀ k < ps.length, timerBound ps[k]? ≤ 480 := by
  decide +kernel

theorem Running.prims_mem {s : State} (h : Running s) : seqPrims s ∈ slotPrims :=
  (seqPrims_of_ne_nil (List.ne_nil_of_length_pos (Nat.zero_lt_of_lt h.position))).2

theorem Running.exists_stands {s : State} (h : Running s) : ∃ i, s.seq.op = some i ∧ Stands i s.seq.phase :=
  (seqPrims_of_ne_nil (List.ne_nil_of_length_pos (Nat.zero_lt_of_lt h.position))).1

/-! ## A primitive is over -/

/-- What is known when a primitive of a running command is over: everything but where `SLOT` goes. -/
structure PrimDone (i : Instr) (ph : Phase) (k : Nat) (s : State) : Prop where
  ranges : Ranges s
  busy : s.busy = true
  err : s.err = 0
  timer : s.timer = 0
  seq : s.seq = ⟨some i, ph, k⟩
  position : k < (seqPrims s).length
  dqOe : s.dqOe = drivenAfter ((seqPrims s).take (k + 1))
  counters : Counters i ph s

theorem primDone_of_running {s : State} {i : Instr} {p : Prim} (hr : Ranges s) (h : Running s)
    (hop : s.seq.op = some i) (hp : (seqPrims s)[s.seq.slot]? = some p) (ht : (p.apply s).timer = 0) :
    PrimDone i s.seq.phase s.seq.slot (p.apply s) := by
  have hd : (p.apply s).dqOe = drivenAfter ((seqPrims s).take (s.seq.slot + 1)) := by
    rw [List.take_add_one, hp]
    exact drivenAfter_apply p h.dqOe
  have hseq : s.seq = ⟨some i, s.seq.phase, s.seq.slot⟩ := by rw [← hop]
  have hc := h.counters hop
  rw [← seqPrims_apply p s] at hd
  have hpos : s.seq.slot < (seqPrims (p.apply s)).length := by
    rw [seqPrims_apply]
    exact h.position
  cases p with
  | driveLow | release | sample => exact ⟨hr, h.busy, h.err, ht, hseq, hpos, hd, hc⟩
  | wait n => exact ⟨hr, h.busy, h.err, ht, hseq, hpos, hd, hc⟩

/-- The primitive was not the last of its slot. -/
theorem PrimDone.inv_next {i : Instr} {ph : Phase} {k : Nat} {s : State} (h : PrimDone i ph k s)
    (hk : k + 1 < (seqPrims s).length) : Inv (goTo ph (k + 1) s) := by
  have hprims : seqPrims (goTo ph (k + 1) s) = seqPrims s := seqPrims_goTo _ (by rw [h.seq])
  have htimer : (goTo ph (k + 1) s).timer = 0 := h.timer
  refine inv_iff.mpr ⟨h.ranges, by omega, .inr (running_of_counters (i := i) ?_ h.busy h.err h.timer ?_ ?_ h.counters)⟩
  · simp [goTo, h.seq]
  · rw [hprims]
    exact hk
  · rw [hprims]
    exact h.dqOe

/-- It was the last: the pin is released. -/
theorem PrimDone.released {i : Instr} {ph : Phase} {k : Nat} {s : State} (h : PrimDone i ph k s)
    (hk : k + 1 = (seqPrims s).length) : s.dqOe = false := by
  have hmem := (seqPrims_of_ne_nil (List.ne_nil_of_length_pos (Nat.zero_lt_of_lt h.position))).2
  rw [h.dqOe, List.take_of_length_le (by omega)]
  exact (slotPrims_released _ hmem).1

/-! ## A slot is over -/

/-- The pulse of a command that goes on with its command byte. -/
theorem PrimDone.inv_afterPulse {i : Instr} {v : Byte} {start : State → State} {k : Nat} {s : State}
    (h : PrimDone i .resetPulse k s) (hi : RomCommand i v start) (hst : Stands i .cmdByte)
    (hd : s.dqOe = false) (hl : s.latch = false) : Inv (afterPulse s) := by
  rw [hi.afterPulse _ _ _ h.seq hl]
  obtain ⟨hdepth, hcount, herr, hfork, hpos, _⟩ := h.ranges
  exact inv_slotStart (t := loadShift v s) ⟨hdepth, hcount, herr, hfork, hpos, Nat.zero_le _⟩ hst
    (congrArg Seq.op h.seq) h.busy h.err h.timer hd ⟨.inl (Nat.zero_lt_succ 7), by simp, h.counters.2.2⟩

/-- A bit of the command byte. -/
theorem PrimDone.inv_afterCmdBit {i : Instr} {k : Nat} {s : State} (h : PrimDone i .cmdByte k s)
    (hst : Stands i .cmdByte) (hd : s.dqOe = false) : Inv (afterCmdBit s) := by
  obtain ⟨hdepth, hcount, herr, ⟨hzero, hfork⟩, hpos, _⟩ := h.ranges
  have hidx : s.bitIdx < 8 := by simpa using h.counters.1
  have hout : Ranges (shiftOut s) := ⟨hdepth, hcount, herr, ⟨hzero, hfork⟩, hpos, hidx⟩
  have hop : s.seq.op = some i := congrArg Seq.op h.seq
  have hmore (h8 : (shiftOut s).bitIdx ≠ 8) : Inv (goTo .cmdByte 0 (shiftOut s)) :=
    inv_slotStart (t := shiftOut s) hout hst hop h.busy h.err h.timer hd
      ⟨.inl (lt_of_le_of_ne hidx h8), by simp, h.counters.2.2⟩
  have hstartAddress (hbits : Stands i .bits) (hc : Counters i .bits (startAddress (shiftOut s))) :
      Inv (startAddress (goTo .bits 0 (shiftOut s))) :=
    inv_slotStart (t := startAddress (shiftOut s)) ⟨hdepth, hcount, herr, ⟨hzero, hfork⟩, Nat.zero_le _, hidx⟩
      hbits hop h.busy h.err h.timer hd hc
  cases hst with
  | search =>
    rw [romCommand_search.afterCmdBit _ _ _ h.seq]
    split
    · exact inv_slotStart (t := startPositions (shiftOut s)) (ph := .bits)
        ⟨hdepth, hcount, herr, ⟨Nat.zero_le _, hfork⟩, Nat.zero_le _, hidx⟩ (.search _ (by decide))
        hop h.busy h.err h.timer hd (by simp [Counters, startPositions])
    · exact hmore ‹_›
  | readAddress =>
    rw [romCommand_readAddress.afterCmdBit _ _ _ h.seq]
    split
    · exact hstartAddress (.readAddress _ (by decide)) (by simp [Counters, startAddress])
    · exact hmore ‹_›
  | select index =>
    rw [(romCommand_select index).afterCmdBit _ _ _ h.seq]
    split
    · exact hstartAddress (.select _ _ (by decide))
        ⟨.inr (.inr rfl), by simp [startAddress], h.counters.2.2⟩
    · exact hmore ‹_›

theorem inv_settle_checkAddress {t : State} (hr : Ranges t) (ht : t.timer = 0) (hd : t.dqOe = false) :
    Inv (checkAddress t).settle := by
  have hone : Ranges { checkCrcOf t.rom t with registry := [t.rom] } := ⟨hr.1, hr.1.1, hr.2.2⟩
  cases hv : validAddress t.rom with
  | true =>
    rw [checkAddress_of_valid hv]
    exact inv_finish hone ht hd
  | false =>
    rw [checkAddress_of_invalid hv]
    exact inv_raise (t := checkCrcOf t.rom t) (by decide) hr ht hd

/-- A bit or a position outside SEARCH. -/
theorem PrimDone.inv_afterSlot_bits {i : Instr} {k : Nat} {s : State} (h : PrimDone i .bits k s)
    (hst : Stands i .bits) (hi : i ≠ .search) (hd : s.dqOe = false) : Inv (afterSlot s) := by
  obtain ⟨hdepth, hcount, herr, hfork, hpos, hidx⟩ := h.ranges
  have hop : s.seq.op = some i := congrArg Seq.op h.seq
  obtain ⟨_, hdata, hindex⟩ := h.counters
  obtain ⟨hwrite, hread, _, haddr, hselect⟩ := hdata rfl
  have hstored {t : State} (hrt : Ranges t) (hb : t.busy = s.busy) (he : t.err = s.err) (ht : t.timer = s.timer)
      (hq : t.seq = s.seq) (hdt : t.dqOe = s.dqOe) (hc : Counters i .bits t) : Inv (goTo .bits 0 t) :=
    inv_slotStart hrt hst (hq ▸ hop) (hb.trans h.busy) (he.trans h.err) (ht.trans h.timer) (hdt.trans hd) hc
  rw [afterSlot_bits hop (congrArg Seq.phase h.seq)]
  cases hst with
  | search => exact absurd rfl hi
  | writeBit operand => exact inv_finish h.ranges h.timer hd
  | readBit => exact inv_finish (t := storeBit s) h.ranges h.timer hd
  | writeByte v =>
    have hlt := hwrite v rfl
    have hr : Ranges (shiftOut s) := ⟨hdepth, hcount, herr, hfork, hpos, hlt⟩
    dsimp only
    split
    · exact inv_finish hr h.timer hd
    · exact hstored hr rfl rfl rfl rfl rfl (by simpa [Counters] using lt_of_le_of_ne hlt ‹_›)
  | readByte =>
    have hlt := hread rfl
    have hr : Ranges (shiftIn s) := ⟨hdepth, hcount, herr, hfork, hpos, hlt⟩
    dsimp only
    split
    · exact inv_finish (t := storeByte (shiftIn s)) hr h.timer hd
    · exact hstored hr rfl rfl rfl rfl rfl (by simpa [Counters] using lt_of_le_of_ne hlt ‹_›)
  | readAddress =>
    have hlt := haddr rfl
    have hr : Ranges (storeRomBit s) := ⟨hdepth, hcount, herr, hfork, hlt, hidx⟩
    dsimp only
    split
    · exact inv_settle_checkAddress hr h.timer hd
    · exact hstored hr rfl rfl rfl rfl rfl (by simpa [Counters] using lt_of_le_of_ne hlt ‹_›)
  | select index =>
    have hlt := hselect index rfl
    have hr : Ranges (nextPosition s) := ⟨hdepth, hcount, herr, hfork, hlt, hidx⟩
    dsimp only
    split
    · exact inv_finish hr h.timer hd
    · exact hstored hr rfl rfl rfl rfl rfl ⟨.inr (.inr rfl), by simpa using lt_of_le_of_ne hlt ‹_›, hindex⟩

theorem PrimDone.inv_afterSlot {i : Instr} {ph : Phase} {k : Nat} {s : State} (h : PrimDone i ph k s)
    (hst : Stands i ph) (hs : ¬(i = .search ∧ ph = .bits)) (hk : k + 1 = (seqPrims s).length) :
    Inv (afterSlot s) := by
  have hd := h.released hk
  have hphase : s.seq.phase = ph := congrArg Seq.phase h.seq
  cases ph with
  | resetPulse =>
    rw [afterSlot_pulse hphase]
    cases hl : s.latch with
    | true =>
      rw [afterPulse_of_silence hl]
      exact inv_raise (by decide) h.ranges h.timer hd
    | false =>
      cases hst with
      | reset =>
        have hdone : afterPulse s = finish s := by simp [afterPulse, h.seq, hl]
        rw [hdone]
        exact inv_finish h.ranges h.timer hd
      | search => exact h.inv_afterPulse romCommand_search (.search _ (by decide)) hd hl
      | readAddress => exact h.inv_afterPulse romCommand_readAddress (.readAddress _ (by decide)) hd hl
      | select index => exact h.inv_afterPulse (romCommand_select index) (.select _ _ (by decide)) hd hl
  | cmdByte =>
    rw [afterSlot_cmdByte hphase]
    exact h.inv_afterCmdBit hst hd
  | bits => exact h.inv_afterSlot_bits hst (fun hi => hs ⟨hi, rfl⟩) hd
  | done =>
    cases hst with
    | search _ hph => exact absurd rfl hph
    | readAddress _ hph => exact absurd rfl hph
    | select _ _ hph => exact absurd rfl hph

/-! ## Inside a position of SEARCH -/

/-- The two reads of a position are over at 6 and 12, whatever bit will be written. -/
theorem drivenAfter_reads (b : Bool) :
    drivenAfter ((readPrims ++ readPrims ++ writePrims b).take 6) = false ∧
    drivenAfter ((readPrims ++ readPrims ++ writePrims b).take 12) = false := by
  cases b <;> decide

theorem length_positionPrims (b : Bool) : (readPrims ++ readPrims ++ writePrims b).length = 16 := by
  cases b <;> rfl

/-- Within a position, before its primitive `k`, the pin being released there. -/
theorem inv_position {t : State} {k : Nat} (hr : Ranges t) (hop : t.seq.op = some .search) (hb : t.busy = true)
    (he : t.err = 0) (ht : t.timer = 0) (hd : t.dqOe = false) (hpos : t.bitPos < 64) (hk : k < 16)
    (hreleased : ∀ b, drivenAfter ((readPrims ++ readPrims ++ writePrims b).take k) = false) :
    Inv (goTo .bits k t) := by
  have hseq : (goTo .bits k t).seq = ⟨some .search, .bits, k⟩ := by simp [goTo, hop]
  have htimer : (goTo .bits k t).timer = 0 := ht
  refine inv_iff.mpr ⟨hr, by omega, .inr (running_of_counters (i := .search) hop hb he ht ?_ ?_
    (by simpa [Counters, goTo] using hpos))⟩
  · rwa [seqPrims_position hseq, length_positionPrims, hseq]
  · rw [seqPrims_position hseq, hseq, hreleased]
    exact hd

theorem inv_afterPosition {t : State} (hr : Ranges t) (hop : t.seq.op = some .search) (hb : t.busy = true)
    (he : t.err = 0) (ht : t.timer = 0) (hd : t.dqOe = false) : Inv (afterPosition t) := by
  obtain ⟨hdepth, hcount, herr, ⟨hzero, hfork⟩, hpos, hidx⟩ := hr
  by_cases h64 : t.bitPos = 64
  · rw [afterPosition_last h64]
    rcases appendCandidate_cases t with ⟨_, happ⟩ | ⟨hfree, happ⟩
    · rw [happ]
      exact inv_raise (by decide) ⟨hdepth, hcount, herr, ⟨hzero, hfork⟩, hpos, hidx⟩ ht hd
    · have hroom : regCount { t with registry := t.registry ++ [t.rom], lastFork := t.lastZero } ≤ t.regDepth := by
        simp only [regCount, List.length_append, List.length_singleton]
        exact lt_of_le_of_ne hcount hfree
      have hr' : Ranges { t with registry := t.registry ++ [t.rom], lastFork := t.lastZero } :=
        ⟨hdepth, hroom, herr, ⟨hzero, hzero⟩, hpos, hidx⟩
      rw [happ]
      by_cases hdone : t.lastZero = 0
      · rw [afterPass_running_of_done hdone]
        exact inv_finish hr' ht hd
      · rw [afterPass_running_of_fork hdone]
        exact inv_slotStart hr' (.search _ (by decide)) hop hb he ht hd (by simp [Counters])
  · rw [afterPosition_more h64]
    exact inv_slotStart ⟨hdepth, hcount, herr, ⟨hzero, hfork⟩, hpos, hidx⟩ (.search _ (by decide)) hop hb he ht
      hd (by simpa [Counters] using lt_of_le_of_ne hpos h64)

theorem PrimDone.inv_afterSearchPrim {k : Nat} {s : State} (h : PrimDone .search .bits k s) :
    Inv (afterSearchPrim (k + 1) s) := by
  have hprims := seqPrims_position h.seq
  have hd := h.dqOe
  have hlen := h.position
  rw [hprims] at hd hlen
  rw [length_positionPrims] at hlen
  obtain ⟨hdepth, hcount, herr, ⟨hzero, hfork⟩, hpos, hidx⟩ := h.ranges
  have hlt : s.bitPos < 64 := by simpa [Counters] using h.counters
  have hop : s.seq.op = some .search := congrArg Seq.op h.seq
  by_cases h6 : k + 1 = 6
  · rw [h6, (drivenAfter_reads _).1] at hd
    rw [afterSearchPrim, if_pos h6]
    exact inv_position (t := latchId s) h.ranges hop h.busy h.err h.timer hd hlt (by decide)
      fun b => (drivenAfter_reads b).1
  by_cases h12 : k + 1 = 12
  · rw [h12, (drivenAfter_reads _).2] at hd
    rw [afterSearchPrim, if_neg h6, if_pos h12]
    dsimp only
    split
    · exact inv_raise (t := latchCmp s) (by decide) h.ranges h.timer hd
    · rw [recordZero_eq]
      have hzero' : (if collision (latchCmp s) && !chosenBit (latchCmp s) then (latchCmp s).bitPos + 1
          else (latchCmp s).lastZero) ≤ 64 := by
        split
        · exact hlt
        · exact hzero
      exact inv_position ⟨hdepth, hcount, herr, ⟨hzero', hfork⟩, hpos, hidx⟩ hop h.busy h.err h.timer hd hlt
        (by decide) fun b => (drivenAfter_reads b).2
  by_cases h16 : k + 1 = 16
  · have hreleased : s.dqOe = false := h.released (by rw [hprims, length_positionPrims, h16])
    rw [afterSearchPrim, if_neg h6, if_neg h12, if_pos h16, afterSearchPosition_eq]
    exact inv_afterPosition (t := storeChosen s) ⟨hdepth, hcount, herr, ⟨hzero, hfork⟩, hlt, hidx⟩ hop h.busy h.err
      h.timer hreleased
  · rw [afterSearchPrim, if_neg h6, if_neg h12, if_neg h16]
    exact h.inv_next (by rw [hprims, length_positionPrims]; omega)

theorem PrimDone.inv_afterPrim {i : Instr} {ph : Phase} {k : Nat} {s : State} (h : PrimDone i ph k s)
    (hst : Stands i ph) : Inv (afterPrim s) := by
  by_cases hs : i = .search ∧ ph = .bits
  · obtain ⟨rfl, rfl⟩ := hs
    rw [afterPrim_position h.seq]
    exact h.inv_afterSearchPrim
  · rw [afterPrim_of_slot (by simpa [h.seq] using hs), h.seq]
    split
    · exact h.inv_afterSlot hst hs ‹_›
    · exact h.inv_next (lt_of_le_of_ne h.position ‹_›)

/-! ## Small steps -/

theorem seqTick_isNext {s : State} (h : Inv s) : ∃ t, seqTick s = .next t := by
  rcases h.position with hidle | hrun
  · exact ⟨s, by simp [seqTick, hidle.seq, Seq.idle]⟩
  · obtain ⟨i, hop, _⟩ := hrun.exists_stands
    obtain ⟨p, hget⟩ : ∃ p, (seqPrims s)[s.seq.slot]? = some p := ⟨_, List.getElem?_eq_getElem hrun.position⟩
    have hnone : s.seq.op.isNone = false := by rw [hop]; rfl
    cases p with
    | driveLow => exact ⟨afterPrim (driveLow s), by simp [seqTick, hnone, hget]⟩
    | release => exact ⟨afterPrim (release s), by simp [seqTick, hnone, hget]⟩
    | wait n =>
      by_cases h0 : s.timer = 0
      · exact ⟨{ s with timer := n }, by simp [seqTick, hnone, hget, h0]⟩
      · by_cases h1 : s.timer = 1
        · exact ⟨afterPrim (wait n s), by simp [seqTick, hnone, hget, h1]⟩
        · exact ⟨{ s with timer := s.timer - 1 }, by simp [seqTick, hnone, hget, h0, h1]⟩
    | sample =>
      have hd : s.dqOe = false := by
        rw [hrun.dqOe]
        exact (slotPrims_released _ hrun.prims_mem).2 _ hrun.position hget
      exact ⟨afterPrim (sample s), by simp [seqTick, hnone, hget, hd]⟩

/-- `TIMER` may hold what is left of the `Wait` the sequencer stands at. -/
theorem inv_timer {s : State} {n k : Nat} (hr : Ranges s) (h : Running s)
    (hp : (seqPrims s)[s.seq.slot]? = some (.wait n)) (hk : k ≤ n) : Inv { s with timer := k } := by
  have hbound := slotPrims_timer _ h.prims_mem _ h.position
  have htimer : { s with timer := k }.timer = k := rfl
  rw [hp, timerBound] at hbound
  refine inv_iff.mpr ⟨hr, by omega, .inr ⟨h.busy, h.err, h.position, h.dqOe, ?_, h.byteBits, h.dataBits, h.index⟩⟩
  show k ≤ timerBound (seqPrims s)[s.seq.slot]?
  rwa [hp]

theorem seqTick_inv {s t : State} (h : Inv s) (ht : seqTick s = .next t) : Inv t := by
  obtain ⟨hr, _, hposition⟩ := inv_iff.mp h
  rcases hposition with hidle | hrun
  · have hnone : s.seq.op.isNone = true := by rw [hidle.seq]; rfl
    have hst : s = t := Host.Outcome.next.inj ((if_pos hnone).symm.trans ht)
    exact hst ▸ h
  obtain ⟨i, hop, hst⟩ := hrun.exists_stands
  have hdone {p : Prim} (hp : (seqPrims s)[s.seq.slot]? = some p) (h0 : (p.apply s).timer = 0) :
      Inv (afterPrim (p.apply s)) :=
    (primDone_of_running hr hrun hop hp h0).inv_afterPrim hst
  have htimer := hrun.timer
  rcases seqTick_next ht with ⟨hnone, _⟩ | ⟨n, hp, hw⟩ | ⟨hp, rfl⟩ | ⟨hp, rfl⟩ | ⟨hp, _, rfl⟩
  · rw [hop] at hnone
    cases hnone
  · rw [hp, timerBound] at htimer
    rcases hw with ⟨_, rfl⟩ | ⟨_, rfl⟩ | ⟨_, rfl⟩
    · exact inv_timer hr hrun hp (Nat.le_refl n)
    · exact hdone hp rfl
    · exact inv_timer hr hrun hp (by omega)
  all_goals
    rw [hp] at htimer
    exact hdone hp (Nat.le_zero.mp htimer)

theorem seqRun_isNext (n : Nat) {s : State} (h : Inv s) : ∃ t, seqRun n s = .next t := by
  induction n generalizing s with
  | zero => exact ⟨s, rfl⟩
  | succ n ih =>
    obtain ⟨t, ht⟩ := seqTick_isNext h
    rw [seqRun_succ n ht]
    exact ih (seqTick_inv h ht)

theorem seqRun_inv {n : Nat} {s t : State} (h : Inv s) (ht : seqRun n s = .next t) : Inv t :=
  seqRun_keeps (P := Inv) (fun _ _ => seqTick_inv) n s t h ht

/-! ## Commands -/

theorem Inv.idle_of_not_busy {s : State} (h : Inv s) (hb : s.busy = false) : Idle s :=
  h.position.resolve_right fun hrun => by simp [hrun.busy] at hb

theorem stands_firstPhase {i : Instr} {s : State} (hz : zeroTime i s = false) : Stands i (firstPhase i) := by
  cases i with
  | reset => exact .reset
  | writeBit operand => exact .writeBit operand
  | readBit => exact .readBit
  | writeByte v => exact .writeByte v
  | readByte => exact .readByte
  | search => exact .search _ (by decide)
  | readAddress => exact .readAddress _ (by decide)
  | select index => exact .select _ _ (by simp [firstPhase])
  | crcInit | crcByte v | crcCheck v | crcAddr index => cases hz

theorem beginCommand_ranges (i : Instr) {s : State} (h : Ranges s) : Ranges (beginCommand i s) := by
  obtain ⟨hdepth, hcount, _, ⟨hzero, hfork⟩, hpos, hidx⟩ := h
  have herr := zero_ne_three_and_seven
  cases i with
  | writeByte v | readByte => exact ⟨hdepth, hcount, herr, ⟨hzero, hfork⟩, hpos, Nat.zero_le _⟩
  | search => exact ⟨hdepth, Nat.zero_le _, herr, ⟨hzero, Nat.zero_le _⟩, hpos, hidx⟩
  | reset | writeBit operand | readBit | readAddress | select index | crcInit | crcByte v | crcCheck v
  | crcAddr index => exact ⟨hdepth, hcount, herr, ⟨hzero, hfork⟩, hpos, hidx⟩

theorem beginCommand_counters {i : Instr} {s : State} (hz : zeroTime i s = false) :
    Counters i (firstPhase i) (beginCommand i s) := by
  cases i with
  | select index =>
    refine ⟨.inr (.inl rfl), by simp [firstPhase], fun j hj => ?_⟩
    cases hj
    refine (lookup_isSome_iff index s).mp ?_
    cases hl : lookup index s with
    | none => simp [zeroTime, hl] at hz
    | some a => rfl
  | writeByte v | readByte => simp [Counters, firstPhase, beginCommand]
  | reset | search | readAddress | writeBit operand | readBit => simp [Counters, firstPhase]
  | crcInit | crcByte v | crcCheck v | crcAddr index => cases hz

theorem beginCommand_dqOe (i : Instr) (s : State) : (beginCommand i s).dqOe = s.dqOe := by
  cases i <;> rfl

theorem beginCommand_inv {i : Instr} {s : State} (h : Inv s) (hidle : Idle s) (hz : zeroTime i s = false) :
    Inv (beginCommand i s) := by
  have hat := beginCommand_atSlot i s
  rw [← hat.goTo_eq]
  exact inv_slotStart (beginCommand_ranges i (inv_iff.mp h).1) (stands_firstPhase hz) (congrArg Seq.op hat.seq)
    hat.busy hat.err hat.timer ((beginCommand_dqOe i s).trans hidle.dqOe) (beginCommand_counters hz)

/-- A command of duration zero changes `ERR` and the CRC engine only, on an idle core (R28). -/
theorem exec_inv_of_zeroTime {i : Instr} {s t : State} (h : Inv s) (hidle : Idle s)
    (hz : zeroTime i s = true) (ht : exec i s = .next t) : Inv t := by
  obtain ⟨⟨hdepth, hcount, _, hrest⟩, htimer, _⟩ := inv_iff.mp h
  have hok : Ranges (clearErr s) := ⟨hdepth, hcount, zero_ne_three_and_seven, hrest⟩
  have hstill (acc : Byte) (valid : Bool) :
      Inv { s with err := 0, crcAcc := acc, crcValid := valid } :=
    inv_iff.mpr ⟨hok, htimer, .inl ⟨hidle.busy, hidle.seq, hidle.dqOe, hidle.timer⟩⟩
  have hbad : Inv (raise .badIndex (clearErr s)) := inv_raise (by decide) hok hidle.timer hidle.dqOe
  cases i with
  | crcInit | crcByte v | crcCheck v =>
    cases ht
    exact hstill _ _
  | crcAddr index =>
    cases hl : lookup index s with
    | none =>
      cases (exec_crcAddr_of_lookup_eq_none hl).symm.trans ht
      exact hbad
    | some a =>
      cases (exec_crcAddr_of_lookup_eq_some hl).symm.trans ht
      exact hstill _ _
  | select index =>
    cases (exec_select_of_lookup_eq_none (Option.isNone_iff_eq_none.mp hz)).symm.trans ht
    exact hbad
  | reset | writeBit operand | readBit | writeByte v | readByte | search | readAddress => cases hz

/-- A whole command keeps the invariant: its small steps do (`exists_reaches_exec`). -/
theorem exec_inv {i : Instr} {s t : State} (h : Inv s) (hidle : Idle s) (ht : exec i s = .next t) : Inv t := by
  cases hz : zeroTime i s with
  | true => exact exec_inv_of_zeroTime h hidle hz ht
  | false =>
    obtain ⟨u, hu, n, hn, _⟩ := exists_reaches_exec hz
    cases hu.symm.trans ht
    exact seqRun_inv (beginCommand_inv h hidle hz) hn

theorem inv_err {s : State} {e : BitVec 3} (h : Inv s) (hidle : Idle s) (he : e ≠ 3 ∧ e ≠ 7) :
    Inv { s with err := e } := by
  obtain ⟨⟨hdepth, hcount, _, hrest⟩, htimer, _⟩ := inv_iff.mp h
  exact inv_iff.mpr ⟨⟨hdepth, hcount, he, hrest⟩, htimer,
    .inl ⟨hidle.busy, hidle.seq, hidle.dqOe, hidle.timer⟩⟩

theorem inv_illegalWord {s : State} (h : Inv s) (hb : s.busy = false) : Inv (illegalWord s) := by
  rw [illegalWord_of_idle (h.idle_of_not_busy hb)]
  exact inv_err h (h.idle_of_not_busy hb) (by decide)

theorem Inv.dropCommand {s : State} (h : Inv s) : Inv (dropCommand s) := h.hostUpdate true _ _ _ _

theorem issue_inv {v : HostWord} {s t : State} (h : Inv s) (ht : issue v s = .next t) : Inv t := by
  rcases issue_cases v s with ⟨_, he⟩ | ⟨hb, _, he⟩ | ⟨hb, i, _, he⟩
  · cases he.symm.trans ht
    exact h.dropCommand
  · cases he.symm.trans ht
    exact inv_illegalWord h hb
  · exact exec_inv h (h.idle_of_not_busy hb) (he.symm.trans ht)

theorem postCommand_inv {v : HostWord} {s t : State} (h : Inv s) (ht : postCommand v s = .next t) : Inv t := by
  rcases postCommand_cases v s with ⟨_, he⟩ | ⟨hb, _, he⟩ | ⟨hb, i, _, ⟨_, he⟩ | ⟨hz, he⟩⟩
  · cases he.symm.trans ht
    exact h.dropCommand
  · cases he.symm.trans ht
    exact inv_illegalWord h hb
  · exact exec_inv h (h.idle_of_not_busy hb) (he.symm.trans ht)
  · cases he.symm.trans ht
    exact beginCommand_inv h (h.idle_of_not_busy hb) hz

/-! ## Steps -/

theorem hostWrite_inv {addr n : Nat} {v : HostWord} {s t : State} (h : Inv s)
    (ht : hostWrite addr n v s = .next t) : Inv t := by
  rcases hostWrite_next ht with ⟨_, _, hi⟩ | ⟨_, _, rfl⟩ | ⟨_, _, rfl⟩ | rfl
  · exact issue_inv h hi
  · rw [writeStatus_eq]
    exact h.hostUpdate _ s.regIndex s.inputs s.hostData s.freeReads
  · exact h.hostUpdate s.ovr _ s.inputs s.hostData s.freeReads
  · exact h

theorem coreReset_inv {s : State} (h : Inv s) : Inv (coreReset s) := by
  have hr : Ranges (coreReset s) := ⟨⟨h.depth_pos, h.depth_le⟩, Nat.zero_le _, zero_ne_three_and_seven,
    ⟨Nat.zero_le _, Nat.zero_le _⟩, Nat.zero_le _, Nat.zero_le _⟩
  exact inv_iff.mpr ⟨hr, Nat.zero_le _, .inl ⟨rfl, rfl, rfl, rfl⟩⟩

theorem hostInput_inv {x : HostInput} {s t : State} (h : Inv s) (ht : hostInput x s = .next t) : Inv t := by
  cases x with
  | write addr n v => exact hostWrite_inv h ht
  | read addr n =>
    obtain ⟨r, _, rfl⟩ := hostRead_next ht
    exact h.hostUpdate s.ovr s.regIndex s.inputs _ _
  | post v => exact postCommand_inv h ht
  | run n => exact seqRun_inv h ht
  | coreReset =>
    cases ht
    exact coreReset_inv h

theorem Inv.takeInput {s : State} (h : Inv s) (rest : List HostInput) : Inv (takeInput rest s) :=
  h.hostUpdate s.ovr s.regIndex rest s.hostData s.freeReads

/-- Settles O45: a step is a small step of the sequencer or one input, and each of them keeps the
invariant. -/
theorem everyStepKeepsTheInvariant : Obligations.EveryStepKeepsTheInvariant := by
  unfold Obligations.EveryStepKeepsTheInvariant
  intro s t h ht
  cases hi : s.inputs with
  | nil => exact seqTick_inv h ((step_noInput hi).symm.trans ht)
  | cons x rest => exact hostInput_inv (h.takeInput rest) ((step_input hi).symm.trans ht)

theorem hostInput_ne_fault {x : HostInput} {s : State} (h : Inv s) (e : Fault) : hostInput x s ≠ .fault e := by
  have hnext {o : Host.Outcome State Fault Refusal} (ho : ∃ t, o = .next t) : o ≠ .fault e := by
    obtain ⟨t, rfl⟩ := ho
    exact fun he => by cases he
  cases x with
  | write addr n v =>
    show hostWrite addr n v s ≠ .fault e
    unfold hostWrite
    split
    · split
      · rename_i r _
        cases r with
        | cmd => exact hnext (issue_isNext v s)
        | status | data | crc | regCount | regIndex | regLo | regHi => exact hnext ⟨_, rfl⟩
      · exact fun he => by cases he
    · exact fun he => by cases he
  | read addr n =>
    show hostRead addr n s ≠ .fault e
    unfold hostRead
    split
    · split
      · exact hnext ⟨_, rfl⟩
      · exact fun he => by cases he
    · exact fun he => by cases he
  | post v =>
    rcases postCommand_cases v s with ⟨_, he⟩ | ⟨_, _, he⟩ | ⟨_, i, _, ⟨_, he⟩ | ⟨_, he⟩⟩
    · exact hnext ⟨_, he⟩
    · exact hnext ⟨_, he⟩
    · exact hnext ((exec_isNext i s).imp fun _ => he.trans)
    · exact hnext ⟨_, he⟩
  | run n => exact hnext (seqRun_isNext n h)
  | coreReset => exact hnext ⟨_, rfl⟩

/-- Settles O46: the sequencer never faults under the invariant (`seqTick_isNext`), and nothing else can. -/
theorem noStepFaultsUnderTheInvariant : Obligations.NoStepFaultsUnderTheInvariant := by
  unfold Obligations.NoStepFaultsUnderTheInvariant
  intro s h e
  cases hi : s.inputs with
  | nil =>
    obtain ⟨t, ht⟩ := seqTick_isNext h
    rw [step_noInput hi, ht]
    exact fun he => by cases he
  | cons x rest =>
    rw [step_input hi]
    exact hostInput_ne_fault (h.takeInput rest) e

end Sys2Proof.Machine
end

section
/-! PROOFS. Family other, byte transport: READ_BYTE (R163, R164), and a byte command as eight bit commands
(R166). -/

namespace Sys2Proof.Machine

/-! ## READ_BYTE -/

theorem readSlotsOf_succ (n : Nat) {s t : State} (h : ∀ k, level t k = level s (1 + k)) :
    readSlotsOf (n + 1) s = .r (level s 0) :: readSlotsOf n t := by
  rw [readSlotsOf, levels_succ n h]
  rfl

theorem forgetLocal_receiveBit (s : State) :
    forgetLocal (receiveBit s) = afterBus 1 [.r (level s 0)] (forgetLocal s) := by
  rw [receiveBit, forgetLocal_shiftIn, forgetLocal_readSlot, level_forgetLocal]

theorem level_receiveBit (s : State) (k : Nat) : level (receiveBit s) k = level s (1 + k) := by
  rw [← level_forgetLocal, forgetLocal_receiveBit, level_afterBus, level_forgetLocal]

theorem forgetLocal_readBits (n : Nat) (s : State) : forgetLocal (readBits (n + 1) s) =
    afterBus (n + 1) (readSlotsOf (n + 1) s) (forgetLocal s) := by
  induction n generalizing s with
  | zero => exact forgetLocal_receiveBit s
  | succ n ih =>
    have hstep : readBits (n + 1 + 1) s = readBits (n + 1) (receiveBit s) := rfl
    rw [hstep, ih, forgetLocal_receiveBit, afterBus_afterBus, readSlotsOf_succ (n + 1) (level_receiveBit s),
      Nat.add_comm 1, List.singleton_append]

theorem forgetLocal_readByte (s : State) :
    forgetLocal (readByte s) = afterBus 8 (readSlotsOf 8 s) (forgetLocal s) :=
  forgetLocal_readBits 7 (loadShift 0 s)

/-- What a transport command leaves that sent the slots `sl` and took `n` samples, the value read apart. -/
def sentOk (n : Nat) (sl : List Slot) (s : State) : State := finish { afterBus n sl s with err := 0 }

theorem sentOk_sentOk (m n : Nat) (x y : List Slot) (s : State) :
    sentOk n y (sentOk m x s) = sentOk (m + n) (x ++ y) s := by
  have h := afterBus_afterBus m n x y s
  exact congrArg (fun u => finish { u with err := 0 }) h

/-- READ_BYTE, command-local state apart: the byte is the eight samples, bit 0 first (R164). -/
theorem exec_readByte_forgetLocal (s : State) : ∃ t, exec .readByte s = .next t ∧
    (∀ k < 8, t.data.getLsbD k = level s k) ∧
    forgetLocal t = forgetLocal { sentOk 8 (readSlotsOf 8 s) s with data := t.data } := by
  refine ⟨finish (storeByte (readByte (accept .readByte s))), rfl, fun k hk => readByte_shift _ k hk, ?_⟩
  rw [forgetLocal_finish, forgetLocal_storeByte, forgetLocal_readByte]
  rfl

/-- Settles O28: `exec_readByte_forgetLocal`. -/
theorem readByteAssemblesEightSamples : Obligations.ReadByteAssemblesEightSamples := by
  unfold Obligations.ReadByteAssemblesEightSamples
  exact ⟨by decide, exec_readByte_forgetLocal⟩

/-! ## A byte command and its eight bit commands (R166) -/

/-- A list of commands that runs to its end: the first command, then the others. -/
theorem runCommands_cons_inv {i : Instr} {rest : List Instr} {s u : State}
    (h : runCommands (i :: rest) s = .next u) :
    ∃ t, exec i s = .next t ∧ runCommands rest t = .next u := by
  obtain ⟨t, ht⟩ := exec_isNext i s
  exact ⟨t, ht, (runCommands_cons rest ht).symm.trans h⟩

theorem forgetLocal_of_exec_writeBit {operand : Byte} {s t : State} (h : exec (.writeBit operand) s = .next t) :
    forgetLocal t = sentOk 0 [.w (bitOperand operand)] (forgetLocal s) := by
  obtain ⟨u, hu, hshown⟩ := exec_writeBit_forgetLocal operand s
  cases hu.symm.trans h
  exact hshown

theorem forgetLocal_of_writeBits {first : Byte} {operands : List Byte} {s u : State}
    (h : runCommands ((first :: operands).map .writeBit) s = .next u) :
    forgetLocal u = sentOk 0 ((first :: operands).map fun o => .w (bitOperand o)) (forgetLocal s) := by
  induction operands generalizing first s with
  | nil =>
    obtain ⟨t, ht, hrest⟩ := runCommands_cons_inv h
    cases hrest
    exact forgetLocal_of_exec_writeBit ht
  | cons o operands ih =>
    obtain ⟨t, ht, hrest⟩ := runCommands_cons_inv h
    rw [ih hrest, forgetLocal_of_exec_writeBit ht, sentOk_sentOk]
    rfl

/-- READ_BIT, the value read apart. -/
theorem forgetLocal_of_exec_readBit {s t : State} (h : exec .readBit s = .next t) :
    forgetLocal { t with data := 0 } = sentOk 1 [.r (level s 0)] (forgetLocal { s with data := 0 }) := by
  obtain ⟨u, hu, hshown⟩ := exec_readBit_forgetLocal s
  cases hu.symm.trans h
  exact congrArg (fun v => { v with data := 0 }) hshown

theorem forgetLocal_of_readBits {n : Nat} {s u : State}
    (h : runCommands (List.replicate (n + 1) .readBit) s = .next u) :
    forgetLocal { u with data := 0 } =
      sentOk (n + 1) (readSlotsOf (n + 1) s) (forgetLocal { s with data := 0 }) := by
  induction n generalizing s with
  | zero =>
    obtain ⟨t, ht, hrest⟩ := runCommands_cons_inv h
    cases hrest
    exact forgetLocal_of_exec_readBit ht
  | succ n ih =>
    obtain ⟨t, ht, hrest⟩ := runCommands_cons_inv h
    have hshown := forgetLocal_of_exec_readBit ht
    have hlevel (k : Nat) : level t k = level s (1 + k) := by
      have := level_after 1 (s := s) (t := forgetLocal { t with data := 0 }) (by rw [hshown]; rfl)
        (by rw [hshown]; rfl) k
      exact this
    rw [ih hrest, hshown, sentOk_sentOk, readSlotsOf_succ (n + 1) hlevel, Nat.add_comm 1, List.singleton_append]

theorem bitOperand_ite (b : Bool) : bitOperand (if b then 1 else 0) = b := by
  cases b <;> rfl

/-- Settles O29: eight times WRITE_BIT sends the byte's slots, eight times READ_BIT the slots READ_BYTE
reads. -/
theorem byteCommandsAreEightBitCommands : Obligations.ByteCommandsAreEightBitCommands := by
  unfold Obligations.ByteCommandsAreEightBitCommands
  refine ⟨fun s t u v ht hu => ?_, fun s t u ht hu => ?_⟩
  · obtain ⟨w, hw, hshown⟩ := exec_writeByte_forgetLocal v s
    cases hw.symm.trans ht
    have hbits : (List.range 8).map (fun k => Instr.writeBit (if v.getLsbD k then 1 else 0)) =
        ((List.range 8).map fun k => if v.getLsbD k then (1 : Byte) else 0).map .writeBit := by
      rw [List.map_map]
      rfl
    rw [hbits] at hu
    refine hshown.trans ((forgetLocal_of_writeBits hu).trans ?_).symm
    have hslots : ((List.range 8).map fun k => if v.getLsbD k then (1 : Byte) else 0).map
        (fun o => Slot.w (bitOperand o)) = byteSlots v := by
      rw [List.map_map]
      exact List.map_congr_left fun k _ => congrArg Slot.w (bitOperand_ite _)
    exact congrArg (fun sl => sentOk 0 sl (forgetLocal s)) hslots
  · obtain ⟨w, hw, _, hshown⟩ := exec_readByte_forgetLocal s
    cases hw.symm.trans ht
    rw [forgetLocal_of_readBits hu]
    exact congrArg (fun v => { v with data := 0 }) hshown

end Sys2Proof.Machine
end

section
/-! PROOFS. Family other, SEARCH (43_search.md): its passes, triplet by triplet, for every oracle. -/

namespace Sys2Proof.Machine

/-! ## Slots sent and answers taken -/

/-- `t` is `s` after the slots `sl`, whose `n` samples are the oracle's next answers; command-local state and
the registry are left open. -/
structure Sent (n : Nat) (sl : List Slot) (s t : State) : Prop where
  shown : forgetLocal { t with registry := s.registry } = afterBus n sl (forgetLocal s)
  answers : slotSamples sl = levels s n

theorem levels_add (m n : Nat) {s t : State} (h : ∀ k, level t k = level s (m + k)) :
    levels s (m + n) = levels s m ++ levels t n := by
  simp [levels, List.range_add, Function.comp_def, h]

theorem slotSamples_append (x y : List Slot) : slotSamples (x ++ y) = slotSamples x ++ slotSamples y :=
  List.filterMap_append

theorem Sent.level {n : Nat} {sl : List Slot} {s t : State} (h : Sent n sl s t) (k : Nat) :
    level t k = level s (n + k) :=
  level_after n (s := s) (t := forgetLocal { t with registry := s.registry }) (by rw [h.shown]; rfl)
    (by rw [h.shown]; rfl) k

theorem Sent.dqOe {n : Nat} {sl : List Slot} {s t : State} (h : Sent n sl s t) : t.dqOe = false :=
  congrArg State.dqOe h.shown

theorem Sent.trans {m n : Nat} {x y : List Slot} {s t u : State} (hst : Sent m x s t) (htu : Sent n y t u) :
    Sent (m + n) (x ++ y) s u where
  shown := by
    have h := congrArg (fun v => { v with registry := s.registry }) htu.shown
    refine Eq.trans (b := afterBus n y (forgetLocal { t with registry := s.registry })) h ?_
    rw [hst.shown, afterBus_afterBus]
  answers := by rw [slotSamples_append, hst.answers, htu.answers, levels_add m n hst.level]

theorem Sent.nil {s : State} (h : s.dqOe = false) : Sent 0 [] s s where
  shown := congrArg (fun b => { forgetLocal s with dqOe := b }) h
  answers := rfl

/-- What only writes command-local state or the registry sends nothing. -/
theorem Sent.congr {n : Nat} {sl : List Slot} {s t u : State} (h : Sent n sl s t)
    (hu : forgetLocal { u with registry := s.registry } = forgetLocal { t with registry := s.registry }) :
    Sent n sl s u where
  shown := hu.trans h.shown
  answers := h.answers

theorem slotSamples_w (bs : List Bool) : slotSamples (bs.map .w) = [] := by
  induction bs with
  | nil => rfl
  | cons b bs ih => exact ih

theorem sent_resetPulse (s : State) : Sent 1 [.rst (level s 0)] s (resetPulse s) where
  shown := by rw [resetPulse_eq]; rfl
  answers := rfl

theorem sent_writeByte (v : Byte) (s : State) : Sent 0 (byteSlots v) s (writeByte v s) where
  shown := by rw [writeByte_eq]; rfl
  answers := rfl

theorem sent_discoveryPair (s : State) :
    Sent 2 [.r (level s 0), .r (level s 1)] s (discoveryPair s) where
  shown := by rw [discoveryPair_eq]; rfl
  answers := rfl

/-! ## The positions of a pass -/

/-- The choice at position `p`, by the fork and the bits of the pass before: `ChosenRight` for any old bits. -/
def ChoiceFrom (fork : Nat) (old : Nat → Bool) (p : Nat) (x : Triplet) : Prop :=
  (x.id = true ∧ x.cmp = false ∧ x.written = true) ∨
  (x.id = false ∧ x.cmp = true ∧ x.written = false) ∨
  (x.id = false ∧ x.cmp = false ∧
    ((p + 1 = fork ∧ x.written = true) ∨ (p + 1 < fork ∧ x.written = old p) ∨
     (fork < p + 1 ∧ x.written = false)))

theorem chosenRight_iff {fork p : Nat} {before : List Triplet} {x : Triplet} :
    ChosenRight fork before p x ↔ ChoiceFrom fork (writtenAt before) p x := Iff.rfl

theorem ChoiceFrom.congr {fork p : Nat} {old old' : Nat → Bool} {x : Triplet} (h : ChoiceFrom fork old p x)
    (hold : old p = old' p) : ChoiceFrom fork old' p x := by
  unfold ChoiceFrom at h ⊢
  rwa [← hold]

/-- The fork a beginning of a pass leaves, counted from position `p` on. -/
def forkFrom (p fork : Nat) (xs : List Triplet) : Nat :=
  (xs.zipIdx p).foldl (fun f x => if x.1.zeroAtCollision then x.2 + 1 else f) fork

theorem forkLeft_eq (xs : List Triplet) : forkLeft xs = forkFrom 0 0 xs := rfl

theorem forkFrom_cons (p fork : Nat) (x : Triplet) (xs : List Triplet) :
    forkFrom p fork (x :: xs) = forkFrom (p + 1) (if x.zeroAtCollision then p + 1 else fork) xs := rfl

/-- `t` is `s` after the positions whose triplets are `xs`. -/
structure Walked (s t : State) (xs : List Triplet) : Prop where
  sent : Sent (2 * xs.length) (xs.flatMap tripletSlots) s t
  registry : t.registry = s.registry
  bitPos : t.bitPos = s.bitPos + xs.length
  lastFork : t.lastFork = s.lastFork
  lastZero : t.lastZero = forkFrom s.bitPos s.lastZero xs
  rom : ∀ q, bitAt t.rom q = if s.bitPos ≤ q ∧ q < s.bitPos + xs.length then writtenAt xs (q - s.bitPos)
    else bitAt s.rom q
  right : ∀ p x, xs[p]? = some x → ChoiceFrom s.lastFork (bitAt s.rom) (s.bitPos + p) x

theorem Walked.nil {s : State} (h : s.dqOe = false) : Walked s s [] where
  sent := Sent.nil h
  registry := rfl
  bitPos := rfl
  lastFork := rfl
  lastZero := rfl
  rom q := (if_neg (by simp only [List.length_nil]; omega)).symm
  right p x hx := by simp at hx

theorem writtenAt_cons_succ (x : Triplet) (xs : List Triplet) (p : Nat) :
    writtenAt (x :: xs) (p + 1) = writtenAt xs p := by
  simp [writtenAt]

theorem Walked.cons {s t u : State} {x : Triplet} {xs : List Triplet} (hst : Walked s t [x])
    (htu : Walked t u xs) : Walked s u (x :: xs) where
  sent := by
    have h := hst.sent.trans htu.sent
    have hlen : 2 * [x].length + 2 * xs.length = 2 * (x :: xs).length := by
      simp only [List.length_cons, List.length_nil]; omega
    rw [hlen] at h
    exact h
  registry := htu.registry.trans hst.registry
  bitPos := by rw [htu.bitPos, hst.bitPos]; simp only [List.length_cons, List.length_nil]; omega
  lastFork := htu.lastFork.trans hst.lastFork
  lastZero := by rw [htu.lastZero, hst.bitPos, hst.lastZero]; rfl
  rom q := by
    have hpos : t.bitPos = s.bitPos + 1 := hst.bitPos
    rw [htu.rom q, hpos, hst.rom q]
    simp only [List.length_cons, List.length_nil]
    by_cases h1 : s.bitPos + 1 ≤ q ∧ q < s.bitPos + 1 + xs.length
    · rw [if_pos h1, if_pos (by omega)]
      have hq : q - s.bitPos = q - (s.bitPos + 1) + 1 := by omega
      rw [hq, writtenAt_cons_succ]
    · rw [if_neg h1]
      by_cases h0 : q = s.bitPos
      · subst h0
        rw [if_pos (by omega), if_pos (by omega), Nat.sub_self]
        rfl
      · rw [if_neg (by omega), if_neg (by omega)]
  right p y hy := by
    cases p with
    | zero => exact hst.right 0 y hy
    | succ p =>
      have hpos : t.bitPos = s.bitPos + 1 := hst.bitPos
      have h := htu.right p y (by simpa using hy)
      rw [hst.lastFork, hpos, Nat.add_assoc, Nat.add_comm 1] at h
      refine h.congr ?_
      rw [hst.rom, if_neg (by simp only [List.length_cons, List.length_nil]; omega)]

/-- The triplet of the next position, on the oracle's next two answers. -/
def nextTriplet (s : State) : Triplet :=
  ⟨level s 0, level s 1, chosenBit { s with idBit := level s 0, cmpBit := level s 1 }⟩

/-- The four cases of R176, R178 for the choice the model makes. -/
theorem nextTriplet_right {s : State} (h : (level s 0 && level s 1) = false) :
    ChoiceFrom s.lastFork (bitAt s.rom) s.bitPos (nextTriplet s) := by
  unfold ChoiceFrom nextTriplet chosenBit collision
  cases h0 : level s 0 <;> cases h1 : level s 1
  · rcases Nat.lt_trichotomy (s.bitPos + 1) s.lastFork with hlt | heq | hgt
    · simp [hlt, Nat.ne_of_lt hlt]
    · simp [heq]
    · simp [hgt, Nat.ne_of_gt hgt, Nat.not_lt_of_gt hgt]
  · simp
  · simp
  · simp [h0, h1] at h

/-- One position of SEARCH that is answered (R175 to R181). -/
theorem walked_position {s : State} (hp : s.bitPos < 64) (h : (level s 0 && level s 1) = false) :
    Walked s (positionEnd s) [nextTriplet s] := by
  have hend := (searchPosition_of_answer (s := s) (by simpa [discoveryPair_eq, silentPair] using h)).symm.trans
    (searchPosition_eq s)
  rw [h] at hend
  simp only [Bool.false_eq_true, if_false, Progress.running.injEq] at hend
  rw [hend]
  refine ⟨⟨rfl, rfl⟩, rfl, rfl, rfl, rfl, fun q => ?_, fun p x hx => ?_⟩
  · rw [bitAt_setBit _ _ _ _ hp]
    by_cases hq : q = s.bitPos
    · subst hq
      rw [if_pos rfl, if_pos (by simp), Nat.sub_self]
      rfl
    · rw [if_neg hq, if_neg (by simp only [List.length_cons, List.length_nil]; omega)]
  · cases p with
    | zero =>
      cases hx
      exact nextTriplet_right h
    | succ p => simp at hx

theorem positionEnd_dqOe (s : State) : (positionEnd s).dqOe = false := by
  simp [positionEnd, storeChosen, writeSlot_eq]

/-- The next `n` positions: all of them, or up to a pair (1,1). -/
theorem searchPositions_walked (n : Nat) {s : State} (hn : s.bitPos + n ≤ 64) (hd : s.dqOe = false) :
    ∃ (xs : List Triplet) (u : State), Walked s u xs ∧
      ((xs.length = n ∧ searchPositions n s = .running u) ∨
       (xs.length < n ∧ level u 0 = true ∧ level u 1 = true ∧
        searchPositions n s = .raised .noPresence (discoveryPair u))) := by
  induction n generalizing s with
  | zero => exact ⟨[], s, Walked.nil hd, .inl ⟨rfl, rfl⟩⟩
  | succ n ih =>
    cases h : level s 0 && level s 1 with
    | true =>
      have hs : silentPair (discoveryPair s) = true := by simpa [discoveryPair_eq, silentPair] using h
      obtain ⟨h0, h1⟩ := Bool.and_eq_true_iff.mp h
      refine ⟨[], s, Walked.nil hd, .inr ⟨Nat.succ_pos n, h0, h1, ?_⟩⟩
      rw [searchPositions, searchPosition_of_silent hs]
      rfl
    | false =>
      have hs : silentPair (discoveryPair s) = false := by simpa [discoveryPair_eq, silentPair] using h
      have hfirst := walked_position (by omega) h
      have hstep : searchPositions (n + 1) s = searchPositions n (positionEnd s) := by
        rw [searchPositions, searchPosition_of_answer hs]
        rfl
      obtain ⟨xs, u, hw, hend⟩ := ih (s := positionEnd s) (by rw [positionEnd_bitPos]; omega) (positionEnd_dqOe s)
      refine ⟨nextTriplet s :: xs, u, hfirst.cons hw, ?_⟩
      rw [hstep, List.length_cons]
      rcases hend with ⟨hlen, hrun⟩ | ⟨hlen, hrest⟩
      · exact .inl ⟨by omega, hrun⟩
      · exact .inr ⟨by omega, hrest⟩

/-! ## One pass -/

/-- What a pass takes over from the pass before: the fork that one left, and its bits (R172, R186). -/
structure PassState (before : List Triplet) (s : State) : Prop where
  fork : s.lastFork = forkLeft before
  rom : ∀ q < 64, bitAt s.rom q = writtenAt before q

/-- How a pass can break off: nobody at the pulse, or nobody at a pair (R173, R177). -/
def SilentTail (before : List Triplet) (tail : List Slot) : Prop :=
  tail = [.rst true] ∨
  ∃ xs : List Triplet, xs.length < 64 ∧ PassRight before xs ∧ tail = passSlots xs ++ [.r true, .r true]

theorem forgetLocal_startPositions (reg : List Address) (s : State) :
    forgetLocal { startPositions s with registry := reg } = forgetLocal { s with registry := reg } := rfl

theorem sent_passStart {s : State} (h0 : level s 0 = false) : Sent 1 ([.rst false] ++ byteSlots 0xF0) s
    (startPositions (writeByte wireSearchRom (resetPulse s))) := by
  have hpulse := sent_resetPulse s
  rw [h0] at hpulse
  have hbyte := hpulse.trans (sent_writeByte wireSearchRom (resetPulse s))
  exact hbyte.congr (forgetLocal_startPositions _ _)

/-- The positions of a pass, from its pulse on. -/
theorem sent_passSlots {n : Nat} {s u : State} {xs : List Triplet} (h0 : level s 0 = false)
    (hw : Walked (startPositions (writeByte wireSearchRom (resetPulse s))) u xs) (hn : xs.length = n) :
    Sent (1 + 2 * n) (passSlots xs) s u := by
  subst hn
  exact (sent_passStart h0).trans hw.sent

theorem startPositions_lastFork_rom (s : State) :
    (startPositions (writeByte wireSearchRom (resetPulse s))).lastFork = s.lastFork ∧
    (startPositions (writeByte wireSearchRom (resetPulse s))).rom = s.rom := by
  rw [writeByte_eq, resetPulse_eq]
  exact ⟨rfl, rfl⟩

theorem startPositions_registry (s : State) :
    (startPositions (writeByte wireSearchRom (resetPulse s))).registry = s.registry := by
  rw [writeByte_eq, resetPulse_eq]
  rfl

theorem startPositions_dqOe (s : State) :
    (startPositions (writeByte wireSearchRom (resetPulse s))).dqOe = false := by
  rw [writeByte_eq]
  rfl

/-- The choices of a pass are right by the pass before. -/
theorem Walked.passRight {before xs : List Triplet} {s u : State} (hps : PassState before s)
    (hw : Walked (startPositions (writeByte wireSearchRom (resetPulse s))) u xs) (hlen : xs.length ≤ 64) :
    PassRight before xs := by
  obtain ⟨hfork, hrom⟩ := startPositions_lastFork_rom s
  intro p x hx
  have hp : p < xs.length := (List.getElem?_eq_some_iff.mp hx).1
  have h := hw.right p x hx
  rw [hfork, hrom, hps.fork] at h
  have hpos : (startPositions (writeByte wireSearchRom (resetPulse s))).bitPos + p = p := Nat.zero_add p
  rw [hpos] at h
  exact h.congr (hps.rom p (by omega))

/-- A pass of SEARCH (R173 to R186): it breaks off, or all 64 positions come to the append. -/
theorem searchPass_cases {before : List Triplet} {s : State} (hps : PassState before s) :
    (∃ (n : Nat) (tail : List Slot) (u : State), SilentTail before tail ∧ Sent n tail s u ∧
      u.registry = s.registry ∧ searchPass s = .raised .noPresence u) ∨
    (∃ (xs : List Triplet) (u : State), xs.length = 64 ∧ PassRight before xs ∧ Sent 129 (passSlots xs) s u ∧
      u.registry = s.registry ∧ u.lastZero = forkLeft xs ∧ (∀ p < 64, bitAt u.rom p = writtenAt xs p) ∧
      searchPass s = appendCandidate u) := by
  cases h0 : level s 0 with
  | true =>
    have hpulse := sent_resetPulse s
    rw [h0] at hpulse
    exact .inl ⟨1, [.rst true], resetPulse s, .inl rfl, hpulse, by rw [resetPulse_eq, afterBus_registry],
      searchPass_of_silence h0⟩
  | false =>
    have hrun : searchPass s = (searchPositions 64 (startPositions (writeByte wireSearchRom
        (resetPulse s)))).andThen appendCandidate := resetOrRaise_andThen_of_presence _ h0
    obtain ⟨xs, u, hw, ⟨hlen, hend⟩ | ⟨hlen, h1, h2, hend⟩⟩ :=
      searchPositions_walked 64 (Nat.le_refl 64) (startPositions_dqOe s)
    · refine .inr ⟨xs, u, hlen, hw.passRight hps (by omega), sent_passSlots h0 hw hlen,
        hw.registry.trans (startPositions_registry s), hw.lastZero, fun p hp => ?_, ?_⟩
      · have hstart : (startPositions (writeByte wireSearchRom (resetPulse s))).bitPos = 0 := rfl
        rw [hw.rom p, hstart, if_pos (by omega), Nat.sub_zero]
      · rw [hrun, hend, andThen_running]
    · have hpair := sent_discoveryPair u
      rw [h1, h2] at hpair
      refine .inl ⟨_, passSlots xs ++ [.r true, .r true], discoveryPair u,
        .inr ⟨xs, hlen, hw.passRight hps (by omega), rfl⟩, (sent_passSlots h0 hw rfl).trans hpair, ?_, ?_⟩
      · rw [discoveryPair_eq]
        exact hw.registry.trans (startPositions_registry s)
      · rw [hrun, hend, andThen_raised]

/-! ## All passes -/

/-- Passes one after the other, the first of them after `before`: 64 positions each, every choice right, and a
fork left before each further one (R187). -/
def PassesFrom : List Triplet → List (List Triplet) → Prop
  | _, [] => True
  | before, xs :: rest =>
    xs.length = 64 ∧ PassRight before xs ∧ (rest ≠ [] → forkLeft xs ≠ 0) ∧ PassesFrom xs rest

/-- The last pass made, `before` if there was none. -/
def lastPass : List Triplet → List (List Triplet) → List Triplet
  | before, [] => before
  | _, xs :: rest => lastPass xs rest

/-- How the passes of a SEARCH end that has room for `free` more entries: no fork left, the registry full, or
nobody there. -/
def PassesEnd (before : List Triplet) (free : Nat) (passes : List (List Triplet)) (tail : List Slot)
    (added : Nat) : Progress → Prop
  | .running _ => tail = [] ∧ passes ≠ [] ∧ added = passes.length ∧ passes.length ≤ free ∧
      forkLeft (lastPass before passes) = 0
  | .raised e _ =>
    (e = .registryFull ∧ tail = [] ∧ passes.length = free + 1 ∧ added = free) ∨
    (e = .noPresence ∧ added = passes.length ∧ passes.length ≤ free ∧
      (passes ≠ [] → forkLeft (lastPass before passes) ≠ 0) ∧ SilentTail (lastPass before passes) tail)

/-- A run of passes from `s`, `before` being the pass before: what was sent, what was appended, how it ended. -/
structure PassesRun (before : List Triplet) (free : Nat) (passes : List (List Triplet)) (tail : List Slot)
    (added : List Address) (s : State) (p : Progress) : Prop where
  sent : ∃ n, Sent n (passes.flatMap passSlots ++ tail) s p.state
  right : PassesFrom before passes
  registry : p.state.registry = s.registry ++ added
  produced : Produced passes added
  ends : PassesEnd before free passes tail added.length p

theorem searchPasses_of_raised {e : ErrorKind} {s u : State} (free : Nat) (h : searchPass s = .raised e u) :
    searchPasses free s = .raised e u := by
  cases free <;> simp [searchPasses, h]

theorem produced_nil (passes : List (List Triplet)) : Produced passes [] := fun k a h => by simp at h

theorem Produced.cons {xs : List Triplet} {passes : List (List Triplet)} {a : Address} {added : List Address}
    (ha : ∀ p < 64, bitAt a p = writtenAt xs p) (h : Produced passes added) :
    Produced (xs :: passes) (a :: added) := by
  intro k b hb
  cases k with
  | zero =>
    cases hb
    exact ⟨xs, rfl, ha⟩
  | succ k => exact h k b hb

theorem passesRun_of_silent {before : List Triplet} {n : Nat} {tail : List Slot} {s u : State} (free : Nat)
    (htail : SilentTail before tail) (hsent : Sent n tail s u) (hreg : u.registry = s.registry) :
    PassesRun before free [] tail [] s (.raised .noPresence u) where
  sent := ⟨n, hsent⟩
  right := trivial
  registry := by simpa using hreg
  produced := produced_nil _
  ends := .inr ⟨rfl, rfl, Nat.zero_le _, fun h => absurd rfl h, htail⟩

theorem regCount_of_registry {s u : State} (h : u.registry = s.registry) : regCount u = regCount s :=
  congrArg List.length h

theorem Sent.regDepth {n : Nat} {sl : List Slot} {s t : State} (h : Sent n sl s t) : t.regDepth = s.regDepth := by
  have hdepth := congrArg State.regDepth h.shown
  exact hdepth

/-- The passes of a SEARCH, the registry having room for `free` more entries (R187, R194). -/
theorem searchPasses_run (free : Nat) {before : List Triplet} {s : State} (hps : PassState before s)
    (hfree : regCount s + free = s.regDepth) :
    ∃ (passes : List (List Triplet)) (tail : List Slot) (added : List Address),
      PassesRun before free passes tail added s (searchPasses free s) := by
  induction free generalizing before s with
  | zero =>
    rcases searchPass_cases hps with ⟨n, tail, u, htail, hsent, hreg, hp⟩ |
      ⟨xs, u, hlen, hright, hsent, hreg, hzero, hrom, hp⟩
    · exact ⟨[], tail, [], searchPasses_of_raised 0 hp ▸ passesRun_of_silent 0 htail hsent hreg⟩
    · have hfull : searchPass s = .raised .registryFull u :=
        hp.trans (if_pos (by rw [regCount_of_registry hreg, hsent.regDepth]; omega))
      refine ⟨[xs], [], [], searchPasses_of_raised 0 hfull ▸ ⟨⟨129, ?_⟩, ?_, ?_, ?_, ?_⟩⟩
      · simpa using hsent
      · exact ⟨hlen, hright, fun h => absurd rfl h, trivial⟩
      · simpa using hreg
      · exact produced_nil _
      · exact .inl ⟨rfl, rfl, rfl, rfl⟩
  | succ free ih =>
    rcases searchPass_cases hps with ⟨n, tail, u, htail, hsent, hreg, hp⟩ |
      ⟨xs, u, hlen, hright, hsent, hreg, hzero, hrom, hp⟩
    · exact ⟨[], tail, [], searchPasses_of_raised _ hp ▸ passesRun_of_silent _ htail hsent hreg⟩
    · have happ : searchPass s = .running { u with registry := u.registry ++ [u.rom], lastFork := u.lastZero } :=
        hp.trans (if_neg (by rw [regCount_of_registry hreg, hsent.regDepth]; omega))
      have hsent' : Sent 129 (passSlots xs) s { u with registry := u.registry ++ [u.rom], lastFork := u.lastZero } :=
        hsent.congr rfl
      rw [searchPasses, happ, andThen_running]
      by_cases hfork : u.lastZero = 0
      · rw [if_pos hfork]
        refine ⟨[xs], [], [u.rom], ⟨129, ?_⟩, ?_, ?_, ?_, ?_⟩
        · simpa using hsent'
        · exact ⟨hlen, hright, fun h => absurd rfl h, trivial⟩
        · simpa using hreg
        · exact (produced_nil []).cons hrom
        · exact ⟨rfl, by simp, rfl, by simp, hzero.symm.trans hfork⟩
      · rw [if_neg hfork]
        have hnext : regCount { u with registry := u.registry ++ [u.rom], lastFork := u.lastZero } + free =
            u.regDepth := by
          rw [hsent.regDepth, ← hfree]
          simp only [regCount, List.length_append, List.length_singleton, hreg]
          omega
        obtain ⟨passes, tail, added, hrun⟩ := ih (before := xs)
          (s := { u with registry := u.registry ++ [u.rom], lastFork := u.lastZero }) ⟨hzero, hrom⟩ hnext
        obtain ⟨n, hn⟩ := hrun.sent
        refine ⟨xs :: passes, tail, u.rom :: added, ⟨129 + n, ?_⟩, ?_, ?_, hrun.produced.cons hrom, ?_⟩
        · simpa using hsent'.trans hn
        · exact ⟨hlen, hright, fun _ => hzero ▸ hfork, hrun.right⟩
        · rw [hrun.registry, hreg]
          simp
        · have hends := hrun.ends
          generalize searchPasses free { u with registry := u.registry ++ [u.rom], lastFork := u.lastZero } = p at hends
          cases p with
          | running v =>
            obtain ⟨ht, _, hadd, hle, hf⟩ := hends
            exact ⟨ht, by simp, by simp [hadd], by simpa using hle, hf⟩
          | raised e v =>
            rcases hends with ⟨he, ht, hle, hadd⟩ | ⟨he, hadd, hle, hf, ht⟩
            · exact .inl ⟨he, ht, by simp [hle], by simp [hadd]⟩
            · refine .inr ⟨he, by simp [hadd], by simpa using hle, fun _ => ?_, ht⟩
              by_cases hne : passes = []
              · subst hne
                exact hzero ▸ hfork
              · exact hf hne

end Sys2Proof.Machine
end

section
/-! PROOFS. Family other, every command: what it sends, what it samples and how it ends, said once; then the
rules of the whole machine (R43, R110, R240, R290, R291) and SEARCH for every oracle. -/

namespace Sys2Proof.Machine

/-! ## The slots and the error of each command -/

/-- The three ends of SEARCH (R187, R192, R193), its passes and what it sent after them. -/
def SearchEnds (s t : State) (passes : List (List Triplet)) (tail : List Slot) : Prop :=
  (t.err = 0 ∧ tail = [] ∧ passes ≠ [] ∧ regCount t = passes.length ∧ passes.length ≤ s.regDepth ∧
    forkLeft (lastPass [] passes) = 0) ∨
  (t.err = 6 ∧ tail = [] ∧ passes.length = s.regDepth + 1 ∧ regCount t = s.regDepth) ∨
  (t.err = 1 ∧ regCount t = passes.length ∧ passes.length ≤ s.regDepth ∧
    (passes ≠ [] → forkLeft (lastPass [] passes) ≠ 0) ∧ SilentTail (lastPass [] passes) tail)

/-- A SEARCH from `s` to `t`: right passes, each but one that found the registry full appended. -/
structure Searched (s t : State) (passes : List (List Triplet)) (tail : List Slot) : Prop where
  right : PassesFrom [] passes
  produced : Produced passes t.registry
  ends : SearchEnds s t passes tail

/-- The slots each command sends from `s`, and the `ERR` it ends with (R140 to R209, R240); of READ_ADDRESS also
what its check leaves (R202, R203). -/
def CommandReport : Instr → State → State → List Slot → Prop
  | .reset, s, t, sl => sl = [.rst (level s 0)] ∧ t.err = if level s 0 then 1 else 0
  | .writeBit operand, _, t, sl => sl = [.w (bitOperand operand)] ∧ t.err = 0
  | .readBit, s, t, sl => sl = [.r (level s 0)] ∧ t.err = 0
  | .writeByte v, _, t, sl => sl = byteSlots v ∧ t.err = 0
  | .readByte, s, t, sl => sl = readSlotsOf 8 s ∧ t.err = 0
  | .search, s, t, sl => ∃ passes tail, sl = passes.flatMap passSlots ++ tail ∧ Searched s t passes tail
  | .readAddress, s, t, sl => (sl = [.rst true] ∧ t.err = 1) ∨
      ∃ a, sl = [.rst false] ++ byteSlots wireReadRom ++ addressReadSlots a ∧
        t.err = (if crc8 (lowBytes a) = byteOf a 7 then 0 else 2) ∧
        t.registry = (if crc8 (lowBytes a) = byteOf a 7 then [a] else s.registry) ∧
        t.crcValid = validAddress a
  | .select index, s, t, sl => match lookup index s with
      | none => sl = [] ∧ t.err = 5
      | some a => (sl = [.rst true] ∧ t.err = 1) ∨
          (sl = [.rst false] ++ byteSlots wireMatchRom ++ addressSlots a ∧ t.err = 0)
  | .crcInit, _, t, sl => sl = [] ∧ t.err = 0
  | .crcByte _, _, t, sl => sl = [] ∧ t.err = 0
  | .crcCheck _, _, t, sl => sl = [] ∧ t.err = 0
  | .crcAddr index, s, t, sl => sl = [] ∧ t.err = if (lookup index s).isSome then 0 else 5

/-- The trace from `s` to `t` is the slots `sl`, and their samples are the next answers, all used up. -/
structure OnBus (sl : List Slot) (s t : State) : Prop where
  trace : SentSlots s t sl
  answers : slotSamples sl = levels s (slotSamples sl).length
  line : t.line = s.line.drop (slotSamples sl).length
  samples : t.samples = s.samples + (slotSamples sl).length

theorem length_levels (s : State) (n : Nat) : (levels s n).length = n := by
  simp [levels]

theorem onBus_of_afterBus {n : Nat} {sl : List Slot} {s t : State} (hs : slotSamples sl = levels s n)
    (htrace : t.trace = (afterBus n sl s).trace) (hline : t.line = (afterBus n sl s).line)
    (hsamples : t.samples = (afterBus n sl s).samples) : OnBus sl s t := by
  have hn : (slotSamples sl).length = n := by rw [hs, length_levels]
  refine ⟨htrace, by rw [hn, hs], ?_, ?_⟩
  · rw [hn]; exact hline
  · rw [hn]; exact hsamples

/-- The same, command-local state left open. -/
theorem onBus_of_forgetLocal {n : Nat} {sl : List Slot} {s t u : State} (hs : slotSamples sl = levels s n)
    (h : forgetLocal t = forgetLocal u) (htrace : u.trace = (afterBus n sl s).trace)
    (hline : u.line = (afterBus n sl s).line) (hsamples : u.samples = (afterBus n sl s).samples) :
    OnBus sl s t :=
  onBus_of_afterBus hs ((congrArg State.trace h).trans htrace) ((congrArg State.line h).trans hline)
    ((congrArg State.samples h).trans hsamples)

theorem onBus_nil {s t : State} (htrace : t.trace = s.trace) (hline : t.line = s.line)
    (hsamples : t.samples = s.samples) : OnBus [] s t :=
  onBus_of_afterBus (n := 0) rfl htrace hline hsamples

theorem slotSamples_readSlots (bs : List Bool) : slotSamples (bs.map .r) = bs := by
  induction bs with
  | nil => rfl
  | cons b bs ih => exact congrArg (b :: ·) ih

theorem addressSlots_eq_map (a : Address) : addressSlots a = ((List.range 64).map (bitAt a)).map .w :=
  (List.map_map (g := Slot.w) (f := bitAt a)).symm

theorem addressReadSlots_eq_map (a : Address) : addressReadSlots a = ((List.range 64).map (bitAt a)).map .r :=
  (List.map_map (g := Slot.r) (f := bitAt a)).symm

theorem slotSamples_addressSlots (a : Address) : slotSamples (addressSlots a) = [] := by
  rw [addressSlots_eq_map, slotSamples_w]

theorem slotSamples_addressReadSlots (a : Address) :
    slotSamples (addressReadSlots a) = (List.range 64).map (bitAt a) := by
  rw [addressReadSlots_eq_map, slotSamples_readSlots]

/-- The address the oracle's answers spell after the presence sample. -/
theorem exists_address (s : State) : ∃ a : Address, ∀ p < 64, level s (1 + p) = bitAt a p := by
  refine ⟨(readAddressBits 64 (startAddress (resetPulse s))).rom, fun p hp => ?_⟩
  have hpos : (startAddress (resetPulse s)).bitPos = 0 := rfl
  rw [readAddressBits_rom 64 _ (by omega), if_pos (by omega), hpos, Nat.sub_zero]
  exact (level_resetPulse s p).symm

/-! SEARCH. -/

theorem passState_start (s : State) : PassState [] (startSearch (accept .search s)) where
  fork := rfl
  rom q _ := by
    show bitAt 0 q = writtenAt [] q
    simp [bitAt, writtenAt]

/-- What SEARCH leaves, its registry and command-local state apart. -/
theorem exec_search_report (s : State) :
    ∃ (n : Nat) (passes : List (List Triplet)) (tail : List Slot) (t : State), exec .search s = .next t ∧
      slotSamples (passes.flatMap passSlots ++ tail) = levels s n ∧ Searched s t passes tail ∧
      forgetLocal { t with registry := [] } =
        forgetLocal (finish { afterBus n (passes.flatMap passSlots ++ tail) s with
          err := t.err, registry := [] }) := by
  obtain ⟨passes, tail, added, hrun⟩ := searchPasses_run s.regDepth (passState_start s) (Nat.zero_add _)
  obtain ⟨⟨n, hsent⟩, hright, hreg, hproduced, hends⟩ := hrun
  refine ⟨n, passes, tail, _, rfl, hsent.answers, ?_, ?_⟩
  · have hadded : (searchPasses s.regDepth (startSearch (accept .search s))).settle.registry = added := by
      have hset : (searchPasses s.regDepth (startSearch (accept .search s))).settle.registry =
          (searchPasses s.regDepth (startSearch (accept .search s))).state.registry := by
        cases searchPasses s.regDepth (startSearch (accept .search s)) <;> rfl
      rw [hset, hreg]
      rfl
    have herr : (searchPasses s.regDepth (startSearch (accept .search s))).state.err = 0 :=
      congrArg State.err hsent.shown
    refine ⟨hright, hadded.symm ▸ hproduced, ?_⟩
    rw [SearchEnds, regCount, hadded]
    cases hp : searchPasses s.regDepth (startSearch (accept .search s)) with
    | running u =>
      rw [hp] at hends herr
      exact .inl ⟨herr, hends⟩
    | raised e u =>
      rw [hp] at hends
      rcases hends with ⟨rfl, hend⟩ | ⟨rfl, hend⟩
      · exact .inr (.inl ⟨rfl, hend⟩)
      · exact .inr (.inr ⟨rfl, hend⟩)
  · have hshown := hsent.shown
    cases hp : searchPasses s.regDepth (startSearch (accept .search s)) with
    | running u =>
      rw [hp] at hshown
      have herr : u.err = 0 := congrArg State.err hshown
      have h := congrArg (fun v => finish v) hshown
      refine h.trans ?_
      rw [settle_running, finish_err, herr]
      rfl
    | raised e u =>
      rw [hp] at hshown
      exact congrArg (fun v => raise e v) hshown

/-! All commands. -/

theorem exec_report {i : Instr} {s t : State} (h : exec i s = .next t) :
    ∃ sl, CommandReport i s t sl ∧ OnBus sl s t := by
  cases i with
  | reset =>
    obtain ⟨u, hu, hshown⟩ := exec_reset_forgetLocal s
    cases hu.symm.trans h
    exact ⟨_, ⟨rfl, congrArg State.err hshown⟩, onBus_of_forgetLocal (n := 1) rfl hshown rfl rfl rfl⟩
  | writeBit operand =>
    obtain ⟨u, hu, hshown⟩ := exec_writeBit_forgetLocal operand s
    cases hu.symm.trans h
    exact ⟨_, ⟨rfl, congrArg State.err hshown⟩, onBus_of_forgetLocal (n := 0) rfl hshown rfl rfl rfl⟩
  | readBit =>
    obtain ⟨u, hu, hshown⟩ := exec_readBit_forgetLocal s
    cases hu.symm.trans h
    exact ⟨_, ⟨rfl, congrArg State.err hshown⟩, onBus_of_forgetLocal (n := 1) rfl hshown rfl rfl rfl⟩
  | writeByte v =>
    obtain ⟨u, hu, hshown⟩ := exec_writeByte_forgetLocal v s
    cases hu.symm.trans h
    exact ⟨_, ⟨rfl, congrArg State.err hshown⟩, onBus_of_forgetLocal (n := 0) rfl hshown rfl rfl rfl⟩
  | readByte =>
    obtain ⟨u, hu, _, hshown⟩ := exec_readByte_forgetLocal s
    cases hu.symm.trans h
    exact ⟨_, ⟨rfl, congrArg State.err hshown⟩,
      onBus_of_forgetLocal (n := 8) (slotSamples_readSlots _) hshown rfl rfl rfl⟩
  | search =>
    obtain ⟨n, passes, tail, u, hu, hs, hsearched, hshown⟩ := exec_search_report s
    cases hu.symm.trans h
    have hbus := onBus_of_forgetLocal hs hshown rfl rfl rfl
    exact ⟨_, ⟨passes, tail, rfl, hsearched⟩, ⟨hbus.trace, hbus.answers, hbus.line, hbus.samples⟩⟩
  | readAddress =>
    cases h0 : level s 0 with
    | true =>
      obtain ⟨u, hu, hshown⟩ := exec_readAddress_of_silence h0
      cases hu.symm.trans h
      exact ⟨_, .inl ⟨rfl, congrArg State.err hshown⟩,
        onBus_of_forgetLocal (n := 1) (by rw [levels_succ 0 (t := resetPulse s) (level_resetPulse s), h0]; rfl)
          hshown rfl rfl rfl⟩
    | false =>
      obtain ⟨a, ha⟩ := exists_address s
      obtain ⟨u, hu, hshown⟩ := exec_readAddress_of_presence h0 ha
      cases hu.symm.trans h
      refine ⟨_, .inr ⟨a, rfl, congrArg State.err hshown, congrArg State.registry hshown,
        congrArg State.crcValid hshown⟩, onBus_of_forgetLocal (n := 65) ?_ hshown rfl rfl rfl⟩
      rw [slotSamples_append, slotSamples_addressReadSlots, levels_succ 64 (level_resetPulse s), h0]
      have hbits : levels (resetPulse s) 64 = (List.range 64).map (bitAt a) :=
        List.map_congr_left fun p hp => (level_resetPulse s p).trans (ha p (List.mem_range.mp hp))
      rw [hbits]
      rfl
  | select index =>
    cases hl : lookup index s with
    | none =>
      cases (exec_select_of_lookup_eq_none hl).symm.trans h
      exact ⟨[], by simp [CommandReport, hl, ErrorKind.code], onBus_nil rfl rfl rfl⟩
    | some a =>
      cases h0 : level s 0 with
      | true =>
        obtain ⟨u, hu, hshown⟩ := exec_select_of_silence hl h0
        cases hu.symm.trans h
        have herr : t.err = 1 := congrArg State.err hshown
        exact ⟨[.rst true], by simp [CommandReport, hl, herr],
          onBus_of_forgetLocal (n := 1) (by rw [levels_succ 0 (t := resetPulse s) (level_resetPulse s), h0]; rfl)
            hshown rfl rfl rfl⟩
      | false =>
        obtain ⟨u, hu, hshown⟩ := exec_select_of_presence hl h0
        cases hu.symm.trans h
        have herr : t.err = 0 := congrArg State.err hshown
        refine ⟨[.rst false] ++ byteSlots wireMatchRom ++ addressSlots a, by simp [CommandReport, hl, herr],
          onBus_of_forgetLocal (n := 1) ?_ hshown rfl rfl rfl⟩
        rw [slotSamples_append, slotSamples_addressSlots,
          levels_succ 0 (t := resetPulse s) (level_resetPulse s), h0]
        rfl
  | crcInit | crcByte v | crcCheck v =>
    cases h
    exact ⟨[], ⟨rfl, rfl⟩, onBus_nil rfl rfl rfl⟩
  | crcAddr index =>
    cases hl : lookup index s with
    | none =>
      cases (exec_crcAddr_of_lookup_eq_none hl).symm.trans h
      exact ⟨[], by simp [CommandReport, hl, ErrorKind.code], onBus_nil rfl rfl rfl⟩
    | some a =>
      cases (exec_crcAddr_of_lookup_eq_some hl).symm.trans h
      exact ⟨[], by simp [CommandReport, hl], onBus_nil rfl rfl rfl⟩

/-! ## Slots, samples and errors of every command -/

/-- Settles O40: `exec_report`. -/
theorem commandsSendWholeSlotsAndSampleInOrder : Obligations.CommandsSendWholeSlotsAndSampleInOrder := by
  unfold Obligations.CommandsSendWholeSlotsAndSampleInOrder
  intro i s t h
  obtain ⟨sl, _, hbus⟩ := exec_report h
  exact ⟨sl, hbus.trace, hbus.answers, hbus.line, hbus.samples⟩

theorem Searched.err {s t : State} {passes : List (List Triplet)} {tail : List Slot}
    (h : Searched s t passes tail) : t.err = 0 ∨ t.err = 1 ∨ t.err = 6 := by
  rcases h.ends with ⟨he, _⟩ | ⟨he, _⟩ | ⟨he, _⟩
  · exact .inl he
  · exact .inr (.inr he)
  · exact .inr (.inl he)

/-- The entry an index names, or that it is at or beyond `REG_COUNT` (R69). -/
theorem lookup_cases (index : Byte) (s : State) :
    (∃ a, lookup index s = some a ∧ index.toNat < regCount s) ∨
    (lookup index s = none ∧ ¬index.toNat < regCount s) := by
  cases hl : lookup index s with
  | none => exact .inr ⟨rfl, Nat.not_lt.mpr ((lookup_eq_none_iff index s).mp hl)⟩
  | some a => exact .inl ⟨a, rfl, (lookup_isSome_iff index s).mp (by rw [hl]; rfl)⟩

/-- Settles O39: the errors of `CommandReport`. -/
theorem commandsRaiseOnlyTheirOwnErrors : Obligations.CommandsRaiseOnlyTheirOwnErrors := by
  unfold Obligations.CommandsRaiseOnlyTheirOwnErrors
  intro i s t h
  obtain ⟨sl, hreport, _⟩ := exec_report h
  cases i with
  | reset =>
    have herr := hreport.2
    cases h0 : level s 0 with
    | true => exact .inr (by simpa [h0] using herr)
    | false => exact .inl (by simpa [h0] using herr)
  | writeBit operand | readBit | writeByte v | readByte | crcInit | crcByte v | crcCheck v => exact hreport.2
  | search =>
    obtain ⟨passes, tail, _, hsearched⟩ := hreport
    exact hsearched.err
  | readAddress =>
    rcases hreport with ⟨_, he⟩ | ⟨a, _, he, _⟩
    · exact .inr (.inl he)
    · by_cases hcrc : crc8 (lowBytes a) = byteOf a 7
      · exact .inl (by rw [he, if_pos hcrc])
      · exact .inr (.inr (by rw [he, if_neg hcrc]))
  | select index =>
    dsimp only
    rcases lookup_cases index s with ⟨a, hl, hlt⟩ | ⟨hl, hge⟩
    · simp only [CommandReport, hl] at hreport
      rw [if_pos hlt]
      rcases hreport with ⟨_, he⟩ | ⟨_, he⟩
      · exact .inr he
      · exact .inl he
    · simp only [CommandReport, hl] at hreport
      rw [if_neg hge]
      exact hreport.2
  | crcAddr index =>
    have herr := hreport.2
    dsimp only
    rcases lookup_cases index s with ⟨a, hl, hlt⟩ | ⟨hl, hge⟩
    · rw [hl] at herr
      rw [if_pos hlt]
      exact herr
    · rw [hl] at herr
      rw [if_neg hge]
      exact herr

/-! ## Durations (R290, R291) -/

/-- Microseconds of a slot (R111). -/
def slotDuration : Slot → Nat
  | .rst _ => 960
  | .w _ => 65
  | .r _ => 71

/-- Microseconds of slots in a row. -/
def slotsDuration (sl : List Slot) : Nat := (sl.map slotDuration).sum

theorem elapsed_eq {sl : List Slot} {s t : State} (h : SentSlots s t sl) :
    elapsed s t = slotsDuration sl := by
  have hslot : (fun x => traceDuration (slotEvents x)) = slotDuration := by
    funext x
    rw [traceDuration_slotEvents]
    cases x <;> rfl
  rw [elapsed, h, traceDuration_afterSlots, hslot, Nat.add_sub_cancel]
  rfl

theorem slotsDuration_append (x y : List Slot) : slotsDuration (x ++ y) = slotsDuration x + slotsDuration y := by
  simp [slotsDuration]

theorem slotsDuration_map_w (bs : List Bool) : slotsDuration (bs.map .w) = 65 * bs.length := by
  induction bs with
  | nil => rfl
  | cons b bs ih =>
    have h : slotsDuration ((b :: bs).map .w) = 65 + slotsDuration (bs.map .w) := rfl
    rw [h, ih, List.length_cons]
    omega

theorem slotsDuration_map_r (bs : List Bool) : slotsDuration (bs.map .r) = 71 * bs.length := by
  induction bs with
  | nil => rfl
  | cons b bs ih =>
    have h : slotsDuration ((b :: bs).map .r) = 71 + slotsDuration (bs.map .r) := rfl
    rw [h, ih, List.length_cons]
    omega

theorem slotsDuration_byteSlots (v : Byte) : slotsDuration (byteSlots v) = 520 := by
  have h : byteSlots v = ((List.range 8).map v.getLsbD).map .w := (List.map_map (g := Slot.w)).symm
  rw [h, slotsDuration_map_w, List.length_map, List.length_range]

/-- A pulse and a command byte. -/
theorem slotsDuration_start (v : Byte) : slotsDuration ([.rst false] ++ byteSlots v) = 1480 := by
  have h : slotsDuration [.rst false] = 960 := rfl
  rw [slotsDuration_append, slotsDuration_byteSlots, h]

theorem slotsDuration_addressSlots (a : Address) : slotsDuration (addressSlots a) = 4160 := by
  rw [addressSlots_eq_map, slotsDuration_map_w, List.length_map, List.length_range]

theorem slotsDuration_addressReadSlots (a : Address) : slotsDuration (addressReadSlots a) = 4544 := by
  rw [addressReadSlots_eq_map, slotsDuration_map_r, List.length_map, List.length_range]

theorem slotsDuration_triplets (xs : List Triplet) :
    slotsDuration (xs.flatMap tripletSlots) = 207 * xs.length := by
  induction xs with
  | nil => rfl
  | cons x xs ih =>
    have h : slotsDuration (tripletSlots x) = 207 := rfl
    rw [List.flatMap_cons, slotsDuration_append, ih, h, List.length_cons]
    omega

theorem slotsDuration_passSlots (xs : List Triplet) : slotsDuration (passSlots xs) = 1480 + 207 * xs.length := by
  rw [passSlots, slotsDuration_append, slotsDuration_triplets, slotsDuration_start]

theorem slotsDuration_passes {before : List Triplet} {passes : List (List Triplet)}
    (h : PassesFrom before passes) : slotsDuration (passes.flatMap passSlots) = 14728 * passes.length := by
  induction passes generalizing before with
  | nil => rfl
  | cons xs passes ih =>
    obtain ⟨hlen, _, _, hrest⟩ := h
    rw [List.flatMap_cons, slotsDuration_append, ih hrest, slotsDuration_passSlots, hlen, List.length_cons]
    omega

/-- A pass that breaks off is shorter than a whole one. -/
theorem SilentTail.duration_le {before : List Triplet} {tail : List Slot} (h : SilentTail before tail) :
    slotsDuration tail ≤ 14728 := by
  rcases h with rfl | ⟨xs, hlen, _, rfl⟩
  · decide
  · have hpair : slotsDuration [.r true, .r true] = 142 := rfl
    rw [slotsDuration_append, slotsDuration_passSlots, hpair]
    omega

theorem Searched.duration_le {s t : State} {passes : List (List Triplet)} {tail : List Slot}
    (h : Searched s t passes tail) :
    slotsDuration (passes.flatMap passSlots ++ tail) ≤ (s.regDepth + 1) * 14728 := by
  rw [slotsDuration_append, slotsDuration_passes h.right]
  rcases h.ends with ⟨_, rfl, _, _, hle, _⟩ | ⟨_, rfl, hlen, _⟩ | ⟨_, _, hle, _, htail⟩
  · have hnil : slotsDuration [] = 0 := rfl
    omega
  · have hnil : slotsDuration [] = 0 := rfl
    omega
  · have := htail.duration_le
    omega

/-- The first slot of a SEARCH is its pulse, with the oracle's first answer. -/
theorem Searched.of_silence {s t : State} {passes : List (List Triplet)} {tail : List Slot}
    (h : Searched s t passes tail) (hbus : OnBus (passes.flatMap passSlots ++ tail) s t)
    (h0 : level s 0 = true) : passes = [] ∧ tail = [.rst true] := by
  have hfirst {xs : List Triplet} {rest : List Slot} (he : passes.flatMap passSlots ++ tail = passSlots xs ++ rest) :
      False := by
    have hs := hbus.answers
    rw [he] at hs
    have hhead : slotSamples (passSlots xs ++ rest) =
        false :: slotSamples (byteSlots 0xF0 ++ xs.flatMap tripletSlots ++ rest) := by
      rw [passSlots, List.append_assoc, List.append_assoc, List.singleton_append, List.append_assoc]
      rfl
    rw [hhead, List.length_cons, levels, List.range_succ_eq_map, List.map_cons, h0] at hs
    cases hs
  cases passes with
  | cons xs passes => exact (hfirst (xs := xs) (rest := passes.flatMap passSlots ++ tail) (by simp)).elim
  | nil =>
    refine ⟨rfl, ?_⟩
    rcases h.ends with ⟨_, _, hne, _⟩ | ⟨_, _, hlen, _⟩ | ⟨_, _, _, _, htail | ⟨xs, _, _, htail⟩⟩
    · exact absurd rfl hne
    · cases hlen
    · exact htail
    · exact (hfirst htail).elim

/-- Settles O41: the durations of the slots in `CommandReport`. -/
theorem commandsTakeTheirDurations : Obligations.CommandsTakeTheirDurations := by
  unfold Obligations.CommandsTakeTheirDurations
  intro i s t h
  obtain ⟨sl, hreport, hbus⟩ := exec_report h
  have helapsed := elapsed_eq hbus.trace
  cases i with
  | reset | writeBit operand | readBit | crcInit | crcByte v | crcCheck v | crcAddr index =>
    obtain ⟨rfl, _⟩ := hreport
    exact helapsed
  | writeByte v =>
    obtain ⟨rfl, _⟩ := hreport
    exact helapsed.trans (slotsDuration_byteSlots v)
  | readByte =>
    obtain ⟨rfl, _⟩ := hreport
    rw [readSlotsOf, slotsDuration_map_r, length_levels] at helapsed
    exact helapsed
  | search =>
    obtain ⟨passes, tail, rfl, hsearched⟩ := hreport
    refine ⟨fun he => ?_, fun h0 => ?_⟩
    · rcases hsearched.ends with ⟨_, rfl, _, hcount, _⟩ | ⟨he', _⟩ | ⟨he', _⟩
      · rw [helapsed, List.append_nil, slotsDuration_passes hsearched.right, hcount]
      · rw [he] at he'
        cases he'
      · rw [he] at he'
        cases he'
    · obtain ⟨rfl, rfl⟩ := hsearched.of_silence hbus h0
      exact helapsed
  | readAddress =>
    dsimp only
    rcases hreport with ⟨rfl, he⟩ | ⟨a, rfl, he, _⟩
    · rw [if_pos he]
      exact helapsed
    · have hne : t.err ≠ 1 := by
        rw [he]
        split <;> decide
      rw [if_neg hne, helapsed, slotsDuration_append, slotsDuration_start, slotsDuration_addressReadSlots]
  | select index =>
    dsimp only
    rcases lookup_cases index s with ⟨a, hl, _⟩ | ⟨hl, _⟩
    · simp only [CommandReport, hl] at hreport
      rcases hreport with ⟨rfl, he⟩ | ⟨rfl, he⟩
      · rw [if_neg (by rw [he]; decide), if_pos he]
        exact helapsed
      · rw [if_neg (by rw [he]; decide), if_neg (by rw [he]; decide), helapsed, slotsDuration_append,
          slotsDuration_start, slotsDuration_addressSlots]
    · simp only [CommandReport, hl] at hreport
      obtain ⟨rfl, he⟩ := hreport
      rw [if_pos he]
      exact helapsed

end Sys2Proof.Machine
end

section
/-! PROOFS. Family other, every command, continued: bounded time (R291), write sets (R43), the empty bus, and
SEARCH seen from its trace (R171 to R193). -/

namespace Sys2Proof.Machine

/-! ## Bounded time (R291) -/

theorem settle_busy (p : Progress) : p.settle.busy = false := by
  cases p <;> rfl

/-- No command leaves `BUSY` at 1 that found it at 0 (R28). -/
theorem exec_busy {i : Instr} {s t : State} (h : exec i s = .next t) (hb : s.busy = false) : t.busy = false := by
  cases i with
  | reset | search | readAddress =>
    cases h
    exact settle_busy _
  | writeBit operand | readBit | writeByte v | readByte =>
    cases h
    rfl
  | select index =>
    cases hl : lookup index s with
    | none =>
      cases (exec_select_of_lookup_eq_none hl).symm.trans h
      rfl
    | some a =>
      cases (exec_select_of_lookup_eq_some hl).symm.trans h
      exact settle_busy _
  | crcInit | crcByte v | crcCheck v =>
    cases h
    exact hb
  | crcAddr index =>
    cases hl : lookup index s with
    | none =>
      cases (exec_crcAddr_of_lookup_eq_none hl).symm.trans h
      rfl
    | some a =>
      cases (exec_crcAddr_of_lookup_eq_some hl).symm.trans h
      exact hb

/-- Every command but SEARCH takes at most 6024 us (R290). -/
theorem elapsed_le_of_ne_search {i : Instr} {s t : State} (hi : i ≠ .search) (h : exec i s = .next t) :
    elapsed s t ≤ 6024 := by
  have hd := commandsTakeTheirDurations i s t h
  cases i with
  | search => exact absurd rfl hi
  | readAddress =>
    dsimp only at hd
    split at hd <;> omega
  | select index =>
    dsimp only at hd
    split at hd
    · omega
    · split at hd <;> omega
  | reset | writeBit operand | readBit | writeByte v | readByte | crcInit | crcByte v | crcCheck v
  | crcAddr index =>
    dsimp only at hd
    omega

/-- Settles O42: `Searched.duration_le` for SEARCH, R290's table for the other commands. -/
theorem everyCommandEndsInBoundedTime : Obligations.EveryCommandEndsInBoundedTime := by
  unfold Obligations.EveryCommandEndsInBoundedTime
  intro i s
  obtain ⟨t, ht⟩ := exec_isNext i s
  refine ⟨t, ht, exec_busy ht, ?_⟩
  by_cases hi : i = .search
  · subst hi
    obtain ⟨sl, ⟨passes, tail, rfl, hsearched⟩, hbus⟩ := exec_report ht
    rw [elapsed_eq hbus.trace]
    exact hsearched.duration_le
  · have := elapsed_le_of_ne_search hi ht
    omega

/-! ## Write sets (R43) -/

/-- The registers R43's rows are about, and the pin, as one value: what a command of the row leaves of them is
read off the state its lemma gives. -/
theorem results_of_forgetLocal {t u : State} (h : forgetLocal t = forgetLocal u) :
    t.registry = u.registry ∧ t.data = u.data ∧ t.crcAcc = u.crcAcc ∧ t.crcValid = u.crcValid ∧
      t.dqOe = u.dqOe := by
  have hregistry := congrArg State.registry h
  have hdata := congrArg State.data h
  have hacc := congrArg State.crcAcc h
  have hvalid := congrArg State.crcValid h
  have hpin := congrArg State.dqOe h
  exact ⟨hregistry, hdata, hacc, hvalid, hpin⟩

/-- What each command leaves of the registry, the result registers and the pin, its own row apart. -/
def KeepsResults : Instr → State → State → Prop
  | .reset, s, t | .writeBit _, s, t | .writeByte _, s, t =>
    t.registry = s.registry ∧ t.data = s.data ∧ t.crcAcc = s.crcAcc ∧ t.crcValid = s.crcValid ∧ t.dqOe = false
  | .readBit, s, t | .readByte, s, t =>
    t.registry = s.registry ∧ t.crcAcc = s.crcAcc ∧ t.crcValid = s.crcValid ∧ t.dqOe = false
  | .search, s, t => t.data = s.data ∧ t.crcAcc = s.crcAcc ∧ t.crcValid = s.crcValid ∧ t.dqOe = false
  | .readAddress, s, t => t.data = s.data ∧ t.dqOe = false
  | .select _, s, t => t.registry = s.registry ∧ t.data = s.data ∧ t.crcAcc = s.crcAcc ∧
      t.crcValid = s.crcValid ∧ (s.dqOe = false → t.dqOe = false)
  | .crcInit, s, t | .crcAddr _, s, t => t.registry = s.registry ∧ t.data = s.data ∧ t.dqOe = s.dqOe
  | .crcByte _, s, t =>
    t.registry = s.registry ∧ t.data = s.data ∧ t.crcValid = s.crcValid ∧ t.dqOe = s.dqOe
  | .crcCheck _, s, t =>
    t.registry = s.registry ∧ t.data = s.data ∧ t.crcAcc = s.crcAcc ∧ t.dqOe = s.dqOe

theorem exec_keepsResults {i : Instr} {s t : State} (h : exec i s = .next t) : KeepsResults i s t := by
  cases i with
  | reset =>
    obtain ⟨u, hu, hshown⟩ := exec_reset_forgetLocal s
    cases hu.symm.trans h
    exact results_of_forgetLocal hshown
  | writeBit operand =>
    obtain ⟨u, hu, hshown⟩ := exec_writeBit_forgetLocal operand s
    cases hu.symm.trans h
    exact results_of_forgetLocal hshown
  | readBit =>
    obtain ⟨u, hu, hshown⟩ := exec_readBit_forgetLocal s
    cases hu.symm.trans h
    obtain ⟨hr, _, hrest⟩ := results_of_forgetLocal hshown
    exact ⟨hr, hrest⟩
  | writeByte v =>
    obtain ⟨u, hu, hshown⟩ := exec_writeByte_forgetLocal v s
    cases hu.symm.trans h
    exact results_of_forgetLocal hshown
  | readByte =>
    obtain ⟨u, hu, _, hshown⟩ := exec_readByte_forgetLocal s
    cases hu.symm.trans h
    obtain ⟨hr, _, hrest⟩ := results_of_forgetLocal hshown
    exact ⟨hr, hrest⟩
  | search =>
    obtain ⟨_, _, _, u, hu, _, _, hshown⟩ := exec_search_report s
    cases hu.symm.trans h
    exact (results_of_forgetLocal hshown).2
  | readAddress =>
    cases h0 : level s 0 with
    | true =>
      obtain ⟨u, hu, hshown⟩ := exec_readAddress_of_silence h0
      cases hu.symm.trans h
      obtain ⟨_, hd, _, _, ho⟩ := results_of_forgetLocal hshown
      exact ⟨hd, ho⟩
    | false =>
      obtain ⟨a, ha⟩ := exists_address s
      obtain ⟨u, hu, hshown⟩ := exec_readAddress_of_presence h0 ha
      cases hu.symm.trans h
      obtain ⟨_, hd, _, _, ho⟩ := results_of_forgetLocal hshown
      exact ⟨hd, ho⟩
  | select index =>
    cases hl : lookup index s with
    | none =>
      cases (exec_select_of_lookup_eq_none hl).symm.trans h
      exact ⟨rfl, rfl, rfl, rfl, id⟩
    | some a =>
      cases h0 : level s 0 with
      | true =>
        obtain ⟨u, hu, hshown⟩ := exec_select_of_silence hl h0
        cases hu.symm.trans h
        obtain ⟨hr, hd, ha, hv, ho⟩ := results_of_forgetLocal hshown
        exact ⟨hr, hd, ha, hv, fun _ => ho⟩
      | false =>
        obtain ⟨u, hu, hshown⟩ := exec_select_of_presence hl h0
        cases hu.symm.trans h
        obtain ⟨hr, hd, ha, hv, ho⟩ := results_of_forgetLocal hshown
        exact ⟨hr, hd, ha, hv, fun _ => ho⟩
  | crcInit =>
    cases h
    exact ⟨rfl, rfl, rfl⟩
  | crcByte v | crcCheck v =>
    cases h
    exact ⟨rfl, rfl, rfl, rfl⟩
  | crcAddr index =>
    cases hl : lookup index s with
    | none =>
      cases (exec_crcAddr_of_lookup_eq_none hl).symm.trans h
      exact ⟨rfl, rfl, rfl⟩
    | some a =>
      cases (exec_crcAddr_of_lookup_eq_some hl).symm.trans h
      exact ⟨rfl, rfl, rfl⟩

/-- Settles O38: the host's side by `exec_hostSide`, the rest by `exec_keepsResults`. -/
theorem commandsKeepToTheirWriteSets : Obligations.CommandsKeepToTheirWriteSets := by
  unfold Obligations.CommandsKeepToTheirWriteSets
  intro i s t h
  have hside := exec_hostSide h
  simp only [hostSide, Prod.mk.injEq] at hside
  obtain ⟨hovr, hindex, hdepth, hinputs, hdata, hreads⟩ := hside
  refine ⟨hovr, hindex, hdepth, hinputs, hdata, hreads, ?_⟩
  have hkeeps := exec_keepsResults h
  cases i <;> simp_all [KeepsResults]

/-! ## An empty bus -/

theorem Searched.of_silence_err {s t : State} (h : Searched s t [] [.rst true]) : t.err = 1 ∧ t.registry = [] := by
  rcases h.ends with ⟨_, _, hne, _⟩ | ⟨_, _, hlen, _⟩ | ⟨he, hcount, _⟩
  · exact absurd rfl hne
  · cases hlen
  · exact ⟨he, List.length_eq_zero_iff.mp hcount⟩

/-- Settles O37: the pulse is all that is sent, and the write sets say what is kept. -/
theorem emptyBusRaisesNoPresence : Obligations.EmptyBusRaisesNoPresence := by
  unfold Obligations.EmptyBusRaisesNoPresence
  intro s h0 i hi
  obtain ⟨t, ht⟩ := exec_isNext i s
  obtain ⟨sl, hreport, hbus⟩ := exec_report ht
  have hkeeps := exec_keepsResults ht
  refine ⟨t, ht, ?_⟩
  simp only [List.mem_cons, List.not_mem_nil, or_false] at hi
  rcases hi with rfl | rfl | rfl
  · obtain ⟨rfl, he⟩ := hreport
    obtain ⟨hr, hd, ha, hv, _⟩ := hkeeps
    rw [h0] at he
    have htrace := hbus.trace
    rw [h0] at htrace
    exact ⟨he, htrace, fun hor => hr.trans (hor.resolve_left (by decide)), fun _ => hr, hd, ha, hv⟩
  · obtain ⟨passes, tail, rfl, hsearched⟩ := hreport
    obtain ⟨rfl, rfl⟩ := hsearched.of_silence hbus h0
    obtain ⟨he, hr⟩ := hsearched.of_silence_err
    obtain ⟨hd, ha, hv, _⟩ := hkeeps
    exact ⟨he, hbus.trace, fun _ => hr, fun hne => absurd rfl hne, hd, ha, hv⟩
  · obtain ⟨u, hu, hshown⟩ := exec_readAddress_of_silence h0
    cases hu.symm.trans ht
    obtain ⟨hr, hd, ha, hv, _⟩ := results_of_forgetLocal hshown
    exact ⟨congrArg State.err hshown, congrArg State.trace hshown, fun hor => hr.trans (hor.resolve_left (by decide)),
      fun _ => hr, hd, ha, hv⟩

/-! ## SEARCH seen from its trace -/

/-- The pass before pass `k`, `before` being the pass before the first. -/
def passBeforeFrom (before : List Triplet) (passes : List (List Triplet)) : Nat → List Triplet
  | 0 => before
  | j + 1 => passes.getD j []

theorem passBefore_eq (passes : List (List Triplet)) (k : Nat) :
    passBefore passes k = passBeforeFrom [] passes k := by
  cases k <;> rfl

theorem passBeforeFrom_cons_succ (before xs : List Triplet) (passes : List (List Triplet)) (k : Nat) :
    passBeforeFrom before (xs :: passes) (k + 1) = passBeforeFrom xs passes k := by
  cases k <;> rfl

theorem passBeforeFrom_length (before : List Triplet) (passes : List (List Triplet)) :
    passBeforeFrom before passes passes.length = lastPass before passes := by
  induction passes generalizing before with
  | nil => rfl
  | cons xs passes ih => exact (passBeforeFrom_cons_succ before xs passes passes.length).trans (ih xs)

theorem passBefore_length (passes : List (List Triplet)) :
    passBefore passes passes.length = lastPass [] passes :=
  (passBefore_eq passes _).trans (passBeforeFrom_length [] passes)

/-- Pass `k` of passes made one after the other. -/
theorem PassesFrom.getElem {before : List Triplet} {passes : List (List Triplet)} (h : PassesFrom before passes)
    {k : Nat} {xs : List Triplet} (hk : passes[k]? = some xs) :
    xs.length = 64 ∧ PassRight (passBeforeFrom before passes k) xs ∧
      (k ≠ 0 → forkLeft (passBeforeFrom before passes k) ≠ 0) := by
  induction passes generalizing before k with
  | nil => simp at hk
  | cons ys passes ih =>
    obtain ⟨hlen, hright, hfork, hrest⟩ := h
    cases k with
    | zero =>
      cases hk
      exact ⟨hlen, hright, fun h => absurd rfl h⟩
    | succ k =>
      obtain ⟨hlen', hright', hfork'⟩ := ih hrest hk
      rw [passBeforeFrom_cons_succ]
      refine ⟨hlen', hright', fun _ => ?_⟩
      cases k with
      | zero => exact hfork (List.ne_nil_of_length_pos
          (Nat.zero_lt_of_lt (Nat.lt_of_succ_lt_succ (List.getElem?_eq_some_iff.mp hk).1)))
      | succ k => exact hfork' (Nat.succ_ne_zero k)

theorem PassesFrom.passesRight {passes : List (List Triplet)} (h : PassesFrom [] passes) : PassesRight passes := by
  intro k xs hk
  rw [passBefore_eq]
  exact h.getElem hk

/-- Settles O34: `exec_search_report`. -/
theorem searchFollowsTheAlgorithm : Obligations.SearchFollowsTheAlgorithm := by
  unfold Obligations.SearchFollowsTheAlgorithm
  intro s
  obtain ⟨n, passes, tail, t, ht, _, hsearched, hshown⟩ := exec_search_report s
  refine ⟨t, passes, tail, ht, congrArg State.trace hshown, hsearched.right.passesRight, hsearched.produced, ?_, ?_,
    congrArg State.busy hshown, congrArg State.seq hshown, congrArg State.dqOe hshown⟩
  · rw [passBefore_length]
    rcases hsearched.ends with ⟨he, htail, hne, hcount, _, hfork⟩ | hfull | ⟨he, hcount, _, hfork, hsilent⟩
    · exact .inl ⟨he, htail, hne, hcount, hfork⟩
    · exact .inr (.inl hfull)
    · exact .inr (.inr ⟨he, hcount, hfork, hsilent⟩)
  · rcases hsearched.ends with ⟨_, _, _, hcount, hle, _⟩ | ⟨_, _, _, hcount⟩ | ⟨_, hcount, hle, _⟩
    · rwa [hcount]
    · exact hcount.le
    · rwa [hcount]

end Sys2Proof.Machine
end

section
/-! PROOFS. Family other, SEARCH where the answers are given: one slave (R191), and a line stuck low (R284,
V-S11). -/

namespace Sys2Proof.Machine

/-! ## The samples of a pass -/

/-- The two samples of a position. -/
def tripletSamples (x : Triplet) : List Bool := [x.id, x.cmp]

theorem slotSamples_triplets (xs : List Triplet) :
    slotSamples (xs.flatMap tripletSlots) = xs.flatMap tripletSamples := by
  induction xs with
  | nil => rfl
  | cons x xs ih =>
    have h : slotSamples (tripletSlots x) = tripletSamples x := rfl
    rw [List.flatMap_cons, slotSamples_append, ih, h, List.flatMap_cons]

theorem slotSamples_passSlots (xs : List Triplet) :
    slotSamples (passSlots xs) = false :: xs.flatMap tripletSamples := by
  rw [passSlots, slotSamples_append, slotSamples_triplets]
  rfl

theorem length_tripletSamples (xs : List Triplet) : (xs.flatMap tripletSamples).length = 2 * xs.length := by
  simp only [List.length_flatMap, tripletSamples, List.length_cons, List.length_nil, List.map_const',
    List.sum_replicate_nat]
  omega

theorem length_passSamples (xs : List Triplet) : (slotSamples (passSlots xs)).length = 1 + 2 * xs.length := by
  rw [slotSamples_passSlots, List.length_cons, length_tripletSamples, Nat.add_comm]

theorem getElem?_tripletSamples {xs : List Triplet} {p : Nat} {x : Triplet} (h : xs[p]? = some x) :
    (xs.flatMap tripletSamples)[2 * p]? = some x.id ∧ (xs.flatMap tripletSamples)[2 * p + 1]? = some x.cmp := by
  induction xs generalizing p with
  | nil => simp at h
  | cons y xs ih =>
    cases p with
    | zero =>
      cases h
      exact ⟨rfl, rfl⟩
    | succ p => exact ih h

/-- The samples of position `p` of a pass, counted from its presence sample on. -/
theorem getElem?_passSamples {xs : List Triplet} {p : Nat} {x : Triplet} (rest : List Slot) (h : xs[p]? = some x) :
    (slotSamples (passSlots xs ++ rest))[1 + 2 * p]? = some x.id ∧
      (slotSamples (passSlots xs ++ rest))[2 + 2 * p]? = some x.cmp := by
  obtain ⟨hid, hcmp⟩ := getElem?_tripletSamples h
  have hfirst : 1 + 2 * p = 2 * p + 1 := Nat.add_comm _ _
  have hsecond : 2 + 2 * p = 2 * p + 1 + 1 := Nat.add_comm _ _
  rw [slotSamples_append, slotSamples_passSlots, List.cons_append, hfirst, hsecond, List.getElem?_cons_succ,
    List.getElem?_cons_succ]
  exact ⟨(List.getElem?_append_left (List.getElem?_eq_some_iff.mp hid).1).trans hid,
    (List.getElem?_append_left (List.getElem?_eq_some_iff.mp hcmp).1).trans hcmp⟩

/-- Sample `k` is answer `k`. -/
theorem OnBus.level_eq {sl : List Slot} {s t : State} (h : OnBus sl s t) {k : Nat} {b : Bool}
    (hk : (slotSamples sl)[k]? = some b) : level s k = b := by
  have hlt := (List.getElem?_eq_some_iff.mp hk).1
  rw [h.answers, levels, List.getElem?_map, List.getElem?_range hlt] at hk
  exact Option.some.inj hk

/-- The answers a pass took at position `p`, if it is the first pass. -/
theorem OnBus.level_pair {xs : List Triplet} {rest : List Slot} {s t : State}
    (h : OnBus (passSlots xs ++ rest) s t) {p : Nat} {x : Triplet} (hx : xs[p]? = some x) :
    level s (1 + 2 * p) = x.id ∧ level s (2 + 2 * p) = x.cmp :=
  ⟨h.level_eq (getElem?_passSamples rest hx).1, h.level_eq (getElem?_passSamples rest hx).2⟩

/-- The answers of a pair (1,1) after `xs`. -/
theorem OnBus.level_silent {xs : List Triplet} {s t : State}
    (h : OnBus (passSlots xs ++ [.r true, .r true]) s t) :
    level s (1 + 2 * xs.length) = true ∧ level s (2 + 2 * xs.length) = true := by
  have hpair : slotSamples [.r true, .r true] = [true, true] := rfl
  constructor
  · refine h.level_eq ?_
    rw [slotSamples_append, List.getElem?_append_right (by rw [length_passSamples]), length_passSamples,
      Nat.sub_self, hpair]
    rfl
  · refine h.level_eq ?_
    have hone : 2 + 2 * xs.length - (1 + 2 * xs.length) = 1 := by omega
    rw [slotSamples_append, List.getElem?_append_right (by rw [length_passSamples]; omega), length_passSamples,
      hone, hpair]
    rfl

/-! ## The fork a pass leaves -/

theorem getElem?_cons_cases {x y : Triplet} {xs : List Triplet} {r : Nat} (h : (x :: xs)[r]? = some y) :
    (r = 0 ∧ y = x) ∨ ∃ r', r = r' + 1 ∧ xs[r']? = some y := by
  cases r with
  | zero =>
    cases h
    exact .inl ⟨rfl, rfl⟩
  | succ r => exact .inr ⟨r, rfl, h⟩

/-- The fork is the last position where the pass went the 0 way at a collision (R36, R172). -/
theorem forkFrom_cases (p fork : Nat) (xs : List Triplet) :
    (forkFrom p fork xs = fork ∧ ∀ x ∈ xs, x.zeroAtCollision = false) ∨
    (∃ q x, forkFrom p fork xs = p + q + 1 ∧ xs[q]? = some x ∧ x.zeroAtCollision = true ∧
      ∀ r y, q < r → xs[r]? = some y → y.zeroAtCollision = false) := by
  induction xs generalizing p fork with
  | nil => exact .inl ⟨rfl, by simp⟩
  | cons x xs ih =>
    rw [forkFrom_cons]
    rcases ih (p + 1) (if x.zeroAtCollision then p + 1 else fork) with ⟨hf, hnone⟩ | ⟨q, y, hf, hq, hy, hlater⟩
    · cases hx : x.zeroAtCollision with
      | false =>
        rw [hx] at hf
        exact .inl ⟨hf, by simpa [hx] using hnone⟩
      | true =>
        rw [hx] at hf
        refine .inr ⟨0, x, hf, rfl, hx, fun r y hr hy => ?_⟩
        rcases getElem?_cons_cases hy with ⟨rfl, _⟩ | ⟨r', _, hy'⟩
        · exact absurd hr (Nat.lt_irrefl 0)
        · exact hnone y (List.mem_of_getElem? hy')
    · refine .inr ⟨q + 1, y, by rw [hf]; omega, hq, hy, fun r z hr hz => ?_⟩
      rcases getElem?_cons_cases hz with ⟨rfl, _⟩ | ⟨r', rfl, hz'⟩
      · exact absurd hr (Nat.not_lt_zero _)
      · exact hlater r' z (Nat.lt_of_succ_lt_succ hr) hz'

theorem forkLeft_cases (xs : List Triplet) :
    (forkLeft xs = 0 ∧ ∀ x ∈ xs, x.zeroAtCollision = false) ∨
    (∃ q x, forkLeft xs = q + 1 ∧ xs[q]? = some x ∧ x.zeroAtCollision = true ∧
      ∀ r y, q < r → xs[r]? = some y → y.zeroAtCollision = false) := by
  simpa only [forkLeft_eq, Nat.zero_add] using forkFrom_cases 0 0 xs

theorem forkLeft_eq_zero {xs : List Triplet} (h : ∀ x ∈ xs, x.zeroAtCollision = false) : forkLeft xs = 0 := by
  rcases forkLeft_cases xs with ⟨hf, _⟩ | ⟨q, x, _, hq, hx, _⟩
  · exact hf
  · rw [h x (List.mem_of_getElem? hq)] at hx
    cases hx

theorem zeroAtCollision_of_forkLeft {xs : List Triplet} (h : forkLeft xs = 0) :
    ∀ x ∈ xs, x.zeroAtCollision = false := by
  rcases forkLeft_cases xs with ⟨_, hnone⟩ | ⟨q, x, hf, _⟩
  · exact hnone
  · rw [hf] at h
    cases h

theorem writtenAt_of_getElem? {xs : List Triplet} {p : Nat} {x : Triplet} (h : xs[p]? = some x) :
    writtenAt xs p = x.written := by
  simp [writtenAt, h]

/-! ## One slave -/

/-- Where each pair is a bit and its complement, the pass writes the bit (R176). -/
theorem ChoiceFrom.of_ne {fork p : Nat} {old : Nat → Bool} {x : Triplet} (h : ChoiceFrom fork old p x)
    (hx : x.cmp = !x.id) : x.written = x.id := by
  rcases h with ⟨hid, _, hw⟩ | ⟨hid, _, hw⟩ | ⟨hid, hcmp, _⟩
  · exact hw.trans hid.symm
  · exact hw.trans hid.symm
  · rw [hid, hcmp] at hx
    cases hx

/-- The triplets a slave with address `a` gives that answers alone. -/
def loneTriplets (a : Address) : List Triplet := (List.range 64).map fun p => ⟨bitAt a p, !bitAt a p, bitAt a p⟩

theorem getElem?_loneTriplets {a : Address} {p : Nat} (hp : p < 64) :
    (loneTriplets a)[p]? = some ⟨bitAt a p, !bitAt a p, bitAt a p⟩ := by
  simp [loneTriplets, hp]

theorem writtenAt_loneTriplets {a : Address} {p : Nat} (hp : p < 64) : writtenAt (loneTriplets a) p = bitAt a p :=
  writtenAt_of_getElem? (getElem?_loneTriplets hp)

theorem forkLeft_loneTriplets (a : Address) : forkLeft (loneTriplets a) = 0 := by
  refine forkLeft_eq_zero fun x hx => ?_
  obtain ⟨p, _, rfl⟩ := List.mem_map.mp hx
  cases h : bitAt a p <;> simp [Triplet.zeroAtCollision]

/-- A pass whose pairs are the bits of `a` and their complements. -/
theorem PassRight.eq_loneTriplets {a : Address} {before xs : List Triplet} (h : PassRight before xs)
    (hlen : xs.length = 64)
    (hpairs : ∀ p x, xs[p]? = some x → x.id = bitAt a p ∧ x.cmp = !bitAt a p) : xs = loneTriplets a := by
  refine List.ext_getElem? fun p => ?_
  by_cases hp : p < 64
  · obtain ⟨x, hx⟩ : ∃ x, xs[p]? = some x := ⟨_, List.getElem?_eq_getElem (hlen ▸ hp)⟩
    obtain ⟨hid, hcmp⟩ := hpairs p x hx
    have hw := (chosenRight_iff.mp (h p x hx)).of_ne (hcmp.trans (congrArg _ hid.symm))
    rw [hx, getElem?_loneTriplets hp]
    obtain ⟨xid, xcmp, xw⟩ := x
    simp only at hid hcmp hw
    rw [hw, hid, hcmp]
  · have hout : (loneTriplets a).length ≤ p := by simpa [loneTriplets] using hp
    rw [List.getElem?_eq_none (by omega), List.getElem?_eq_none hout]

/-- The answers of a slave with address `a` that is alone: present, and bit and complement of each position. -/
def LoneAnswers (a : Address) (s : State) : Prop :=
  level s 0 = false ∧ ∀ p < 64, level s (1 + 2 * p) = bitAt a p ∧ level s (2 + 2 * p) = !bitAt a p

theorem LoneAnswers.not_silent {a : Address} {before : List Triplet} {tail : List Slot} {s t : State}
    (h : LoneAnswers a s) (hbus : OnBus tail s t) : ¬SilentTail before tail := by
  rintro (rfl | ⟨xs, hlen, _, rfl⟩)
  · have h0 : level s 0 = true := hbus.level_eq rfl
    rw [h.1] at h0
    cases h0
  · obtain ⟨hid, hcmp⟩ := hbus.level_silent
    obtain ⟨h1, h2⟩ := h.2 xs.length hlen
    rw [hid] at h1
    rw [hcmp, ← h1] at h2
    cases h2

/-- SEARCH with one slave answering: one pass, its address, and no error (R191). -/
theorem Searched.of_loneAnswers {a : Address} {passes : List (List Triplet)} {tail : List Slot} {s t : State}
    (h : Searched s t passes tail) (hbus : OnBus (passes.flatMap passSlots ++ tail) s t) (hd : 1 ≤ s.regDepth)
    (ha : LoneAnswers a s) : passes = [loneTriplets a] ∧ tail = [] ∧ t.err = 0 ∧ t.registry = [a] := by
  cases passes with
  | nil =>
    rcases h.ends with ⟨_, _, hne, _⟩ | ⟨_, _, hlen, _⟩ | ⟨_, _, _, _, hsilent⟩
    · exact absurd rfl hne
    · cases hlen
    · exact absurd hsilent (ha.not_silent hbus)
  | cons xs passes =>
    obtain ⟨hlen, hright, hfork, _⟩ := h.right
    have hxs : xs = loneTriplets a := by
      refine hright.eq_loneTriplets hlen fun p x hx => ?_
      rw [List.flatMap_cons, List.append_assoc] at hbus
      obtain ⟨hid, hcmp⟩ := hbus.level_pair hx
      obtain ⟨h1, h2⟩ := ha.2 p (hlen ▸ (List.getElem?_eq_some_iff.mp hx).1)
      exact ⟨hid.symm.trans h1, hcmp.symm.trans h2⟩
    have hzero : forkLeft xs = 0 := hxs ▸ forkLeft_loneTriplets a
    have hnil : passes = [] := Classical.not_not.mp fun hne => hfork hne hzero
    subst hnil hxs
    rcases h.ends with ⟨he, htail, _, hcount, _⟩ | ⟨_, _, hfull, _⟩ | ⟨_, _, _, hne, _⟩
    · refine ⟨rfl, htail, he, ?_⟩
      obtain ⟨b, hb⟩ := List.length_eq_one_iff.mp hcount
      obtain ⟨ys, hys, hbits⟩ := h.produced 0 b (by rw [hb]; rfl)
      cases hys
      rw [hb, bitAt_ext fun p hp => (hbits p hp).trans (writtenAt_loneTriplets hp)]
    · have : s.regDepth + 1 = 1 := hfull.symm
      omega
    · exact absurd (forkLeft_loneTriplets a) (hne (by simp))

/-- Settles O35: `exec_search_report` with the answers of one slave. -/
theorem searchOfOneSlaveTakesOnePass : Obligations.SearchOfOneSlaveTakesOnePass := by
  unfold Obligations.SearchOfOneSlaveTakesOnePass
  intro s a hd h0 hpairs
  obtain ⟨n, passes, tail, t, ht, hs, hsearched, hshown⟩ := exec_search_report s
  have hbus : OnBus (passes.flatMap passSlots ++ tail) s t :=
    have h := onBus_of_forgetLocal hs hshown rfl rfl rfl
    ⟨h.trace, h.answers, h.line, h.samples⟩
  obtain ⟨rfl, rfl, he, hr⟩ := hsearched.of_loneAnswers hbus hd ⟨h0, hpairs⟩
  have hn : n = 129 := by
    have hlen := congrArg List.length hs
    rw [length_levels] at hlen
    exact hlen.symm
  subst hn
  refine ⟨t, ht, ?_⟩
  have h := congrArg (fun v => { v with registry := [a] }) hshown
  have hreg : forgetLocal t = forgetLocal { t with registry := [a] } := by rw [← hr]
  rw [hreg]
  refine Eq.trans h ?_
  rw [he, List.append_nil, List.flatMap_cons, List.flatMap_nil, List.append_nil]
  rfl

/-! ## A line stuck low -/

/-- The number the pass writes, position 0 its bit 63. -/
def WritesNumber (xs : List Triplet) (k : Nat) : Prop := ∀ p < 64, writtenAt xs p = k.testBit (63 - p)

/-- A pass in which every sample is low: a collision at every position. -/
def AllCollide (xs : List Triplet) : Prop := ∀ x ∈ xs, x.id = false ∧ x.cmp = false

/-- Adding one sets the lowest zero bit and clears the ones below it. -/
theorem testBit_succ_of_lowest_zero {k m : Nat} (hones : ∀ j < m, k.testBit j = true) (hzero : k.testBit m = false)
    (i : Nat) : (k + 1).testBit i = if i < m then false else if i = m then true else k.testBit i := by
  induction m generalizing k i with
  | zero =>
    have heven : k % 2 = 0 := by simpa [Nat.testBit_zero] using hzero
    cases i with
    | zero => simp [Nat.testBit_zero]; omega
    | succ i =>
      have hhalf : (k + 1) / 2 = k / 2 := by omega
      simp [Nat.testBit_succ, hhalf]
  | succ m ih =>
    have hodd : k % 2 = 1 := by simpa [Nat.testBit_zero] using hones 0 (Nat.succ_pos m)
    have hhalf : (k + 1) / 2 = k / 2 + 1 := by omega
    cases i with
    | zero => simp [Nat.testBit_zero]; omega
    | succ i =>
      rw [Nat.testBit_succ, hhalf, ih (fun j hj => by
        rw [← Nat.testBit_succ]
        exact hones (j + 1) (Nat.succ_lt_succ hj)) (by rwa [← Nat.testBit_succ]), Nat.testBit_succ]
      simp

theorem ChoiceFrom.of_collision {fork p : Nat} {old : Nat → Bool} {x : Triplet} (h : ChoiceFrom fork old p x)
    (hid : x.id = false) (hcmp : x.cmp = false) :
    x.written = if p + 1 = fork then true else if p + 1 < fork then old p else false := by
  rcases h with ⟨h1, _⟩ | ⟨_, h1, _⟩ | ⟨_, _, ⟨hp, hw⟩ | ⟨hp, hw⟩ | ⟨hp, hw⟩⟩
  · rw [hid] at h1
    cases h1
  · rw [hcmp] at h1
    cases h1
  · rw [hw, if_pos hp]
  · rw [hw, if_neg (by omega), if_pos hp]
  · rw [hw, if_neg (by omega), if_neg (by omega)]

/-- Position `p` of a pass in which everything collides (R178). -/
theorem PassRight.writtenAt_of_collision {before xs : List Triplet} (h : PassRight before xs) (hlen : xs.length = 64)
    (hlow : AllCollide xs) {p : Nat} (hp : p < 64) :
    writtenAt xs p = if p + 1 = forkLeft before then true else
      if p + 1 < forkLeft before then writtenAt before p else false := by
  obtain ⟨x, hx⟩ : ∃ x, xs[p]? = some x := ⟨_, List.getElem?_eq_getElem (hlen ▸ hp)⟩
  obtain ⟨hid, hcmp⟩ := hlow x (List.mem_of_getElem? hx)
  rw [writtenAt_of_getElem? hx]
  exact (chosenRight_iff.mp (h p x hx)).of_collision hid hcmp

theorem writesNumber_first {xs : List Triplet} (h : PassRight [] xs) (hlen : xs.length = 64)
    (hlow : AllCollide xs) : WritesNumber xs 0 := by
  intro p hp
  have hfork : forkLeft [] = 0 := rfl
  rw [h.writtenAt_of_collision hlen hlow hp, hfork, if_neg (by omega), if_neg (by omega), Nat.zero_testBit]

theorem zeroAtCollision_of_low {x : Triplet} (h : x.id = false ∧ x.cmp = false) :
    x.zeroAtCollision = !x.written := by
  simp [Triplet.zeroAtCollision, h.1, h.2]

/-- A pass that has not yet written ones only leaves a fork. -/
theorem forkLeft_ne_zero_of_number {xs : List Triplet} {k : Nat} (hlen : xs.length = 64) (hlow : AllCollide xs)
    (hw : WritesNumber xs k) (hk : k < 2 ^ 63) : forkLeft xs ≠ 0 := by
  intro hfork
  obtain ⟨x, hx⟩ : ∃ x, xs[0]? = some x := ⟨_, List.getElem?_eq_getElem (by omega)⟩
  have hmem := List.mem_of_getElem? hx
  have hzac := zeroAtCollision_of_forkLeft hfork x hmem
  have hbit : x.written = false := by
    rw [← writtenAt_of_getElem? hx, hw 0 (by omega)]
    exact Nat.testBit_lt_two_pow hk
  rw [zeroAtCollision_of_low (hlow x hmem), hbit] at hzac
  cases hzac

/-- Each pass counts one further (R284). -/
theorem writesNumber_succ {before xs : List Triplet} {k : Nat} (hb : before.length = 64) (hlowb : AllCollide before)
    (hw : WritesNumber before k) (hk : k < 2 ^ 63) (h : PassRight before xs) (hlen : xs.length = 64)
    (hlow : AllCollide xs) : WritesNumber xs (k + 1) := by
  rcases forkLeft_cases before with ⟨hf, _⟩ | ⟨q, x, hf, hq, hx, hlater⟩
  · exact absurd hf (forkLeft_ne_zero_of_number hb hlowb hw hk)
  · have hq64 : q < 64 := hb ▸ (List.getElem?_eq_some_iff.mp hq).1
    have hzero : k.testBit (63 - q) = false := by
      rw [← hw q hq64, writtenAt_of_getElem? hq]
      simpa [zeroAtCollision_of_low (hlowb x (List.mem_of_getElem? hq))] using hx
    have hones : ∀ j < 63 - q, k.testBit j = true := by
      intro j hj
      obtain ⟨y, hy⟩ : ∃ y, before[63 - j]? = some y := ⟨_, List.getElem?_eq_getElem (by omega)⟩
      have hone := hlater (63 - j) y (by omega) hy
      rw [zeroAtCollision_of_low (hlowb y (List.mem_of_getElem? hy)), ← writtenAt_of_getElem? hy,
        hw _ (by omega)] at hone
      have hj' : 63 - (63 - j) = j := by omega
      simpa [hj'] using hone
    intro p hp
    rw [h.writtenAt_of_collision hlen hlow hp, testBit_succ_of_lowest_zero hones hzero, hf]
    rcases Nat.lt_trichotomy p q with hlt | rfl | hgt
    · rw [if_neg (by omega), if_pos (by omega), if_neg (by omega), if_neg (by omega), hw p hp]
    · rw [if_pos rfl, if_neg (by omega), if_pos rfl]
    · rw [if_neg (by omega), if_neg (by omega), if_pos (by omega)]

/-- Passes that go on counting after one that wrote `k`. -/
theorem PassesFrom.writesNumber_after {before : List Triplet} {passes : List (List Triplet)} {k : Nat}
    (h : PassesFrom before passes) (hb : before.length = 64) (hlowb : AllCollide before)
    (hw : WritesNumber before k) (hlow : ∀ xs ∈ passes, AllCollide xs) (hk : k + passes.length < 2 ^ 63) {j : Nat}
    {xs : List Triplet} (hj : passes[j]? = some xs) : WritesNumber xs (k + 1 + j) := by
  induction passes generalizing before k j with
  | nil => simp at hj
  | cons ys passes ih =>
    obtain ⟨hlen, hright, _, hrest⟩ := h
    rw [List.length_cons] at hk
    have hys := hlow ys List.mem_cons_self
    have hnext : WritesNumber ys (k + 1) := writesNumber_succ hb hlowb hw (by omega) hright hlen hys
    cases j with
    | zero =>
      cases hj
      exact hnext
    | succ j =>
      have := ih hrest hlen hys hnext (fun xs hx => hlow xs (List.mem_cons_of_mem _ hx)) (by omega) hj
      rwa [Nat.add_assoc (k + 1), Nat.add_comm 1 j] at this

/-- Pass `j` of a SEARCH on a line stuck low writes the number `j` (V-S11). -/
theorem PassesFrom.writesNumber {passes : List (List Triplet)} (h : PassesFrom [] passes)
    (hlow : ∀ xs ∈ passes, AllCollide xs) (hk : passes.length < 2 ^ 63) {j : Nat} {xs : List Triplet}
    (hj : passes[j]? = some xs) : WritesNumber xs j := by
  cases passes with
  | nil => simp at hj
  | cons ys passes =>
    obtain ⟨hlen, hright, _, hrest⟩ := h
    rw [List.length_cons] at hk
    have hys := hlow ys List.mem_cons_self
    have hfirst := writesNumber_first hright hlen hys
    cases j with
    | zero =>
      cases hj
      exact hfirst
    | succ j =>
      have := hrest.writesNumber_after hlen hys hfirst (fun xs hx => hlow xs (List.mem_cons_of_mem _ hx))
        (by omega) hj
      rwa [Nat.zero_add, Nat.add_comm] at this

/-! The samples are low, so everything collides, and no pulse or pair goes unanswered. -/

theorem mem_passSamples {xs : List Triplet} {x : Triplet} (h : x ∈ xs) :
    x.id ∈ slotSamples (passSlots xs) ∧ x.cmp ∈ slotSamples (passSlots xs) := by
  rw [slotSamples_passSlots]
  exact ⟨List.mem_cons_of_mem _ (List.mem_flatMap.mpr ⟨x, h, by simp [tripletSamples]⟩),
    List.mem_cons_of_mem _ (List.mem_flatMap.mpr ⟨x, h, by simp [tripletSamples]⟩)⟩

theorem mem_passesSamples {passes : List (List Triplet)} {xs : List Triplet} {b : Bool} (h : xs ∈ passes)
    (hb : b ∈ slotSamples (passSlots xs)) : b ∈ slotSamples (passes.flatMap passSlots) := by
  induction passes with
  | nil => simp at h
  | cons ys passes ih =>
    rw [List.flatMap_cons, slotSamples_append]
    rcases List.mem_cons.mp h with rfl | h
    · exact List.mem_append_left _ hb
    · exact List.mem_append_right _ (ih h)

theorem length_passesSamples {before : List Triplet} {passes : List (List Triplet)} (h : PassesFrom before passes) :
    (slotSamples (passes.flatMap passSlots)).length = 129 * passes.length := by
  induction passes generalizing before with
  | nil => rfl
  | cons xs passes ih =>
    obtain ⟨hlen, _, _, hrest⟩ := h
    rw [List.flatMap_cons, slotSamples_append, List.length_append, length_passSamples, ih hrest, hlen,
      List.length_cons]
    omega

theorem SilentTail.length_samples_le {before : List Triplet} {tail : List Slot} (h : SilentTail before tail) :
    (slotSamples tail).length ≤ 129 := by
  rcases h with rfl | ⟨xs, hlen, _, rfl⟩
  · decide
  · have hpair : (slotSamples [.r true, .r true]).length = 2 := rfl
    rw [slotSamples_append, List.length_append, length_passSamples, hpair]
    omega

theorem SilentTail.true_mem {before : List Triplet} {tail : List Slot} (h : SilentTail before tail) :
    true ∈ slotSamples tail := by
  rcases h with rfl | ⟨xs, _, _, rfl⟩
  · exact List.mem_singleton.mpr rfl
  · rw [slotSamples_append]
    exact List.mem_append_right _ List.mem_cons_self

/-- A SEARCH takes at most 129 samples a pass, in at most `REG_DEPTH` + 1 passes. -/
theorem Searched.length_samples_le {passes : List (List Triplet)} {tail : List Slot} {s t : State}
    (h : Searched s t passes tail) :
    (slotSamples (passes.flatMap passSlots ++ tail)).length ≤ (s.regDepth + 1) * 129 := by
  rw [slotSamples_append, List.length_append, length_passesSamples h.right]
  rcases h.ends with ⟨_, rfl, _, _, hle, _⟩ | ⟨_, rfl, hlen, _⟩ | ⟨_, _, hle, _, htail⟩
  · have hnil : (slotSamples []).length = 0 := rfl
    omega
  · have hnil : (slotSamples []).length = 0 := rfl
    omega
  · have := htail.length_samples_le
    omega

/-- Every answer a SEARCH can ask for is low. -/
def StuckLow (s : State) : Prop := ∀ k < (s.regDepth + 1) * 129, level s k = false

theorem Searched.samples_low {passes : List (List Triplet)} {tail : List Slot} {s t : State}
    (h : Searched s t passes tail) (hbus : OnBus (passes.flatMap passSlots ++ tail) s t) (hs : StuckLow s)
    {b : Bool} (hb : b ∈ slotSamples (passes.flatMap passSlots ++ tail)) : b = false := by
  obtain ⟨k, hk⟩ := List.mem_iff_getElem?.mp hb
  have hlt := (List.getElem?_eq_some_iff.mp hk).1
  exact (hbus.level_eq hk).symm.trans (hs k (Nat.lt_of_lt_of_le hlt h.length_samples_le))

theorem Searched.allCollide {passes : List (List Triplet)} {tail : List Slot} {s t : State}
    (h : Searched s t passes tail) (hbus : OnBus (passes.flatMap passSlots ++ tail) s t) (hs : StuckLow s) :
    ∀ xs ∈ passes, AllCollide xs := by
  intro xs hxs x hx
  have hlow {b : Bool} (hb : b ∈ slotSamples (passSlots xs)) : b = false := by
    refine h.samples_low hbus hs ?_
    rw [slotSamples_append]
    exact List.mem_append_left _ (mem_passesSamples hxs hb)
  exact ⟨hlow (mem_passSamples hx).1, hlow (mem_passSamples hx).2⟩

theorem PassesFrom.length_of_mem {before xs : List Triplet} {passes : List (List Triplet)}
    (h : PassesFrom before passes) (hxs : xs ∈ passes) : xs.length = 64 := by
  obtain ⟨k, hk⟩ := List.mem_iff_getElem?.mp hxs
  exact (h.getElem hk).1

theorem lastPass_eq_getLast {before : List Triplet} {passes : List (List Triplet)} (h : passes ≠ []) :
    lastPass before passes = passes.getLast h := by
  induction passes generalizing before with
  | nil => exact absurd rfl h
  | cons xs passes ih =>
    cases passes with
    | nil => rfl
    | cons ys passes => exact ih (before := xs) (List.cons_ne_nil ys passes)

/-- A SEARCH on a line stuck low goes on until the registry is full (R284). -/
theorem Searched.full_of_stuckLow {passes : List (List Triplet)} {tail : List Slot} {s t : State}
    (h : Searched s t passes tail) (hbus : OnBus (passes.flatMap passSlots ++ tail) s t) (hs : StuckLow s)
    (hd : s.regDepth ≤ 256) :
    t.err = 6 ∧ tail = [] ∧ passes.length = s.regDepth + 1 ∧ regCount t = s.regDepth := by
  rcases h.ends with ⟨_, _, hne, _, hle, hfork⟩ | hfull | ⟨_, _, _, _, htail⟩
  · have hlow := h.allCollide hbus hs
    have hmem : lastPass [] passes ∈ passes := by
      rw [lastPass_eq_getLast hne]
      exact List.getLast_mem hne
    obtain ⟨j, hj⟩ := List.mem_iff_getElem?.mp hmem
    have hjlt := (List.getElem?_eq_some_iff.mp hj).1
    have hnumber := h.right.writesNumber hlow (by omega) hj
    exact absurd hfork (forkLeft_ne_zero_of_number (h.right.length_of_mem hmem) (hlow _ hmem) hnumber (by omega))
  · exact hfull
  · have hmem : true ∈ slotSamples (passes.flatMap passSlots ++ tail) := by
      rw [slotSamples_append]
      exact List.mem_append_right _ htail.true_mem
    exact absurd (h.samples_low hbus hs hmem) (by decide)

/-- Settles O53: the passes count up from 0, and only a full registry ends them. -/
theorem searchOnAStuckLowLineFillsTheRegistry : Obligations.SearchOnAStuckLowLineFillsTheRegistry := by
  unfold Obligations.SearchOnAStuckLowLineFillsTheRegistry
  intro s hd hs
  obtain ⟨t, ht⟩ := exec_isNext .search s
  obtain ⟨sl, ⟨passes, tail, rfl, hsearched⟩, hbus⟩ := exec_report ht
  obtain ⟨he, rfl, hlen, hcount⟩ := hsearched.full_of_stuckLow hbus hs hd
  refine ⟨t, ht, he, hcount, fun k a ha p hp => ?_, ?_, ?_⟩
  · obtain ⟨xs, hxs, hbits⟩ := hsearched.produced k a ha
    have hnumber := hsearched.right.writesNumber (hsearched.allCollide hbus hs) (by omega) hxs
    exact (hbits p hp).trans (hnumber p hp)
  · rw [hbus.samples, List.append_nil, length_passesSamples hsearched.right, hlen, Nat.mul_comm]
  · rw [elapsed_eq hbus.trace, List.append_nil, slotsDuration_passes hsearched.right, hlen, Nat.mul_comm]

end Sys2Proof.Machine
end

section
/-! PROOFS. Family other, host listings (R222 to R229): commands issued one after the other on an idle core;
SetResolution, ReadTemperatureRaw, and the lines that stand still (R284, R285). -/

namespace Sys2Proof.Machine

/-! ## A command the host issues -/

theorem exec_of_issued {i : Instr} {s : State} (hb : s.busy = false) (hi : i.wellFormed = true) :
    exec i s = .next (issued (encode i) s) := by
  obtain ⟨t, ht⟩ := exec_isNext i s
  rw [issued_eq hb (decode_encode hi) ht, ht]

theorem issued_busy {i : Instr} {s : State} (hb : s.busy = false) (hi : i.wellFormed = true) :
    (issued (encode i) s).busy = false :=
  exec_busy (exec_of_issued hb hi) hb

theorem sentSlots_trans {x y : List Slot} {s t u : State} (hst : SentSlots s t x) (htu : SentSlots t u y) :
    SentSlots s u (x ++ y) := by
  rw [SentSlots, afterSlots_append, ← hst]
  exact htu

/-- A byte the host has the core write. -/
theorem issued_writeByte {s : State} (hb : s.busy = false) (v : Byte) :
    SentSlots s (issued (encode (.writeByte v)) s) (byteSlots v) ∧ (issued (encode (.writeByte v)) s).err = 0 := by
  obtain ⟨sl, ⟨rfl, he⟩, hbus⟩ := exec_report (exec_of_issued hb (i := .writeByte v) rfl)
  exact ⟨hbus.trace, he⟩

/-- The bytes a listing writes. -/
def writeLines (vs : List Byte) : List Line := vs.map fun v => .command (.writeByte v)

theorem runListing_writeLines {s : State} (hb : s.busy = false) (he : s.err = 0) (vs : List Byte) :
    SentSlots s (runListing (writeLines vs) s) (vs.flatMap byteSlots) ∧ (runListing (writeLines vs) s).err = 0 := by
  induction vs generalizing s with
  | nil => exact ⟨rfl, he⟩
  | cons v vs ih =>
    obtain ⟨hsent, herr⟩ := issued_writeByte hb v
    obtain ⟨hrest, herr'⟩ := ih (issued_busy hb (i := .writeByte v) rfl) herr
    exact ⟨sentSlots_trans hsent hrest, herr'⟩

theorem issued_select_of_lookup_eq_none {index : Byte} {s : State} (hs : Idle s) (h : lookup index s = none) :
    issued (encode (.select index)) s = { s with err := 5 } := by
  rw [issued_eq hs.busy (decode_encode (i := .select index) rfl) (exec_select_of_lookup_eq_none h),
    raise_clearErr_of_idle _ hs, ErrorKind.code]

/-- What SELECT of an entry leaves, with and without presence. -/
theorem issued_select_of_lookup_eq_some {index : Byte} {s : State} {a : Address} (hb : s.busy = false)
    (h : lookup index s = some a) :
    (level s 0 = true ∧ (issued (encode (.select index)) s).err = 1 ∧
      OnBus [.rst true] s (issued (encode (.select index)) s)) ∨
    (level s 0 = false ∧ (issued (encode (.select index)) s).err = 0 ∧
      OnBus ([.rst false] ++ byteSlots wireMatchRom ++ addressSlots a) s (issued (encode (.select index)) s)) := by
  obtain ⟨sl, hreport, hbus⟩ := exec_report (exec_of_issued hb (i := .select index) rfl)
  simp only [CommandReport, h] at hreport
  rcases hreport with ⟨rfl, he⟩ | ⟨rfl, he⟩
  · exact .inl ⟨hbus.level_eq (k := 0) rfl, he, hbus⟩
  · refine .inr ⟨hbus.level_eq (k := 0) ?_, he, hbus⟩
    rw [slotSamples_append, slotSamples_addressSlots]
    rfl

/-! ## SetResolution (R228, R229) -/

theorem setResolution_listing (index : Byte) {bits : Nat} (h9 : 9 ≤ bits) (h12 : bits ≤ 12) :
    (Pseudo.setResolution index bits).expand = .command (.select index) :: .ifErrStop ::
      writeLines [wireWriteScratchpad, 0xFF, 0x00, resolutionByte bits] :=
  if_neg (by omega)

/-- The byte of R229, with the shift and the `|` as arithmetic. -/
theorem resolutionByte_eq {bits : Nat} (h9 : 9 ≤ bits) (h12 : bits ≤ 12) :
    resolutionByte bits = BitVec.ofNat 8 ((bits - 9) * 32 + 0x1F) := by
  interval_cases bits <;> rfl

theorem encode_writeByte_resolutionByte {bits : Nat} (h9 : 9 ≤ bits) (h12 : bits ≤ 12) :
    encode (.writeByte (resolutionByte bits)) = 0x0400 ||| (BitVec.ofNat 16 ((bits - 9) * 32) ||| 0x1F) := by
  interval_cases bits <;> decide

/-- Settles O51: the listing's SELECT in its three ends, then four bytes. -/
theorem setResolutionListing : Obligations.SetResolutionListing := by
  unfold Obligations.SetResolutionListing
  refine ⟨fun s index bits hout => if_pos hout, fun s index bits h9 h12 hs => ⟨fun hcount => ?_, fun hcount h0 => ?_,
    fun a ha h0 => ?_⟩, fun index bits h9 h12 => ?_⟩
  · have herr : (5 : BitVec 3) ≠ 0 := by decide
    rw [setResolution_inside index ⟨h9, h12⟩, setResolution_listing index h9 h12, runCall, runListing_command,
      issued_select_of_lookup_eq_none hs ((lookup_eq_none_iff index s).mpr hcount),
      runListing_ifErrStop_error _ herr]
    rfl
  · rw [setResolution_inside index ⟨h9, h12⟩, setResolution_listing index h9 h12, runCall, runListing_command]
    obtain ⟨a, ha⟩ := Option.isSome_iff_exists.mp ((lookup_isSome_iff index s).mpr hcount)
    rcases issued_select_of_lookup_eq_some hs.busy ha with ⟨_, he, hbus⟩ | ⟨h0', _, _⟩
    · have hne : (issued (encode (.select index)) s).err ≠ 0 := by
        rw [he]
        decide
      rw [runListing_ifErrStop_error _ hne, resultOf_error hne, he]
      exact ⟨rfl, hbus.trace⟩
    · rw [h0] at h0'
      cases h0'
  · rw [setResolution_inside index ⟨h9, h12⟩, setResolution_listing index h9 h12, runCall, runListing_command]
    rcases issued_select_of_lookup_eq_some hs.busy ha with ⟨h0', _, _⟩ | ⟨_, he, hbus⟩
    · rw [h0] at h0'
      cases h0'
    · obtain ⟨hsent, herr⟩ := runListing_writeLines (issued_busy hs.busy (i := .select index) rfl) he
        [wireWriteScratchpad, 0xFF, 0x00, resolutionByte bits]
      rw [runListing_ifErrStop_ok _ he, resultOf_ok herr, ← resolutionByte_eq h9 h12]
      have hall := sentSlots_trans hbus.trace hsent
      simp only [List.flatMap_cons, List.flatMap_nil, List.append_nil, ← List.append_assoc] at hall
      exact ⟨rfl, hall⟩
  · have hselect : encode (.select index) = 0x0800 ||| index.setWidth 16 := 
      encode_eq_or_operand (.select index) (by simp [Instr.opcode])
    rw [setResolution_listing index h9 h12, ← encode_writeByte_resolutionByte h9 h12, ← hselect]
    rfl

/-! ## ReadTemperatureRaw (R222 to R225) -/

/-- `t` is `s` after commands that took `n` samples, ended with `ERR` 0 and left the registry. -/
structure Took (n : Nat) (s t : State) : Prop where
  busy : t.busy = false
  err : t.err = 0
  registry : t.registry = s.registry
  level : ∀ k, level t k = level s (n + k)

theorem Took.trans {m n : Nat} {s t u : State} (hst : Took m s t) (htu : Took n t u) : Took (m + n) s u where
  busy := htu.busy
  err := htu.err
  registry := htu.registry.trans hst.registry
  level k := by rw [htu.level, hst.level, Nat.add_assoc]

/-- A command that ended well and kept the registry. -/
theorem OnBus.took {n : Nat} {sl : List Slot} {s t : State} (h : OnBus sl s t) (hn : (slotSamples sl).length = n)
    (hb : t.busy = false) (he : t.err = 0) (hr : t.registry = s.registry) : Took n s t where
  busy := hb
  err := he
  registry := hr
  level k := by
    subst hn
    exact level_after _ h.line h.samples k

theorem took_select {index : Byte} {s : State} (hb : s.busy = false) (hcount : index.toNat < regCount s)
    (h0 : level s 0 = false) : Took 1 s (issued (encode (.select index)) s) := by
  obtain ⟨a, ha⟩ := Option.isSome_iff_exists.mp ((lookup_isSome_iff index s).mpr hcount)
  rcases issued_select_of_lookup_eq_some hb ha with ⟨h0', _, _⟩ | ⟨_, he, hbus⟩
  · rw [h0] at h0'
    cases h0'
  · refine hbus.took ?_ (issued_busy hb rfl) he
      (exec_keepsResults (exec_of_issued hb (i := .select index) rfl)).1
    rw [slotSamples_append, slotSamples_addressSlots]
    rfl

theorem took_writeByte {s : State} (hb : s.busy = false) (v : Byte) :
    Took 0 s (issued (encode (.writeByte v)) s) := by
  obtain ⟨sl, ⟨rfl, he⟩, hbus⟩ := exec_report (exec_of_issued hb (i := .writeByte v) rfl)
  exact hbus.took rfl (issued_busy hb rfl) he (exec_keepsResults (exec_of_issued hb (i := .writeByte v) rfl)).1

/-- READ_BYTE where the line spells `v`. -/
theorem took_readByte {s : State} {v : Byte} (hb : s.busy = false) (hv : ∀ k < 8, level s k = v.getLsbD k) :
    Took 8 s (issued (encode .readByte) s) ∧ (issued (encode .readByte) s).data = v ∧
      (issued (encode .readByte) s).crcAcc = s.crcAcc := by
  have hexec := exec_of_issued hb (i := .readByte) rfl
  obtain ⟨sl, ⟨rfl, he⟩, hbus⟩ := exec_report hexec
  obtain ⟨hr, hacc, _, _⟩ := exec_keepsResults hexec
  obtain ⟨t, ht, hdata, _⟩ := exec_readByte_forgetLocal s
  cases ht.symm.trans hexec
  refine ⟨hbus.took ?_ (issued_busy hb rfl) he hr, BitVec.eq_of_getLsbD_eq fun k hk => (hdata k hk).trans (hv k hk),
    hacc⟩
  rw [readSlotsOf, slotSamples_readSlots, length_levels]

theorem issued_crcInit {s : State} (hb : s.busy = false) :
    issued (encode .crcInit) s = { s with err := 0, crcAcc := 0, crcValid := false } :=
  issued_eq hb (decode_encode rfl) (exec_crcInit s)

theorem issued_crcByte {s : State} (hb : s.busy = false) (v : Byte) :
    issued (encode (.crcByte v)) s = { s with err := 0, crcAcc := crcUpdate s.crcAcc v } :=
  issued_eq hb (decode_encode (i := .crcByte v) rfl) (exec_crcByte v s)

theorem issued_crcCheck {s : State} (hb : s.busy = false) (v : Byte) :
    issued (encode (.crcCheck v)) s = { s with err := 0, crcValid := decide (s.crcAcc = v) } :=
  issued_eq hb (decode_encode (i := .crcCheck v) rfl) (exec_crcCheck v s)

/-- The line spells these bytes, from answer 0 on. -/
def Spells (s : State) (bytes : List Byte) : Prop :=
  ∀ j < bytes.length, ∀ k < 8, level s (8 * j + k) = (bytes.getD j 0).getLsbD k

theorem Spells.head {s : State} {v : Byte} {bytes : List Byte} (h : Spells s (v :: bytes)) :
    ∀ k < 8, level s k = v.getLsbD k := fun k hk => by
  have := h 0 (Nat.succ_pos _) k hk
  rwa [Nat.mul_zero, Nat.zero_add] at this

theorem Spells.tail {s t : State} {v : Byte} {bytes : List Byte} (h : Spells s (v :: bytes)) (ht : Took 8 s t) :
    Spells t bytes := fun j hj k hk => by
  have := h (j + 1) (Nat.succ_lt_succ hj) k hk
  rw [ht.level, ← Nat.add_assoc, Nat.add_comm 8]
  exact this

/-- The host's loop over bytes the line spells: it collects them and runs the CRC over them. -/
theorem readCheckedBytes_of_spells {s : State} {bytes rest : List Byte} (hb : s.busy = false) (he : s.err = 0)
    (hs : Spells s (bytes ++ rest)) :
    ∃ t, readCheckedBytes bytes.length s = (bytes, t) ∧ Took (8 * bytes.length) s t ∧ Spells t rest ∧
      t.crcAcc = bytes.foldl crcUpdate s.crcAcc := by
  induction bytes generalizing s with
  | nil => exact ⟨s, rfl, ⟨hb, he, rfl, fun k => by rw [List.length_nil, Nat.mul_zero, Nat.zero_add]⟩, hs, rfl⟩
  | cons v bytes ih =>
    obtain ⟨hread, hdata, hacc⟩ := took_readByte hb hs.head
    have hcrc : Took 8 s (issued (encode (.crcByte v)) (issued (encode .readByte) s)) := by
      rw [issued_crcByte hread.busy]
      exact ⟨hread.busy, rfl, hread.registry, hread.level⟩
    obtain ⟨t, ht, htook, hspells, hfold⟩ := ih hcrc.busy hcrc.err (hs.tail hcrc)
    refine ⟨t, ?_, ?_, hspells, ?_⟩
    · rw [List.length_cons, readCheckedBytes, hdata, ht]
    · have := hcrc.trans htook
      rwa [Nat.add_comm, ← Nat.mul_succ] at this
    · rw [hfold, issued_crcByte hread.busy, hacc, List.foldl_cons]

/-- The ninth byte (R222, R225). -/
theorem checkScratchpad_of_spells {s : State} {bytes : List Byte} {c : Byte} (hb : s.busy = false)
    (hs : Spells s [c]) (hacc : s.crcAcc = crc8 bytes) :
    (checkScratchpad bytes s).1 =
      (if crcValidFor bytes c then .ok (bytes.getD 0 0, bytes.getD 1 0) else .error 3) ∧
    (checkScratchpad bytes s).2.err = 0 ∧ (checkScratchpad bytes s).2.crcValid = crcValidFor bytes c ∧
    (checkScratchpad bytes s).2.registry = s.registry := by
  obtain ⟨hread, hdata, hkept⟩ := took_readByte hb hs.head
  have hvalid : decide ((issued (encode .readByte) s).crcAcc = c) = crcValidFor bytes c := by
    rw [hkept, hacc]
    rfl
  rw [checkScratchpad, hdata, issued_crcCheck hread.busy, hvalid]
  cases crcValidFor bytes c <;> exact ⟨rfl, rfl, rfl, hread.registry⟩

/-- Settles O52: SELECT, the function command, eight bytes through the CRC, and the ninth against it. -/
theorem readTemperatureRawChecksTheScratchpad : Obligations.ReadTemperatureRawChecksTheScratchpad := by
  unfold Obligations.ReadTemperatureRawChecksTheScratchpad
  intro s index x hidle hcount h0 hx
  have hselect := took_select hidle.busy hcount h0
  have hwrite := hselect.trans (took_writeByte hselect.busy wireReadScratchpad)
  have hinit : Took 1 s (issued (encode .crcInit) (issued (encode (.writeByte wireReadScratchpad))
      (issued (encode (.select index)) s))) := by
    rw [issued_crcInit hwrite.busy]
    exact ⟨hwrite.busy, rfl, hwrite.registry, hwrite.level⟩
  have hacc : (issued (encode .crcInit) (issued (encode (.writeByte wireReadScratchpad))
      (issued (encode (.select index)) s))).crcAcc = 0 := by
    rw [issued_crcInit hwrite.busy]
  have hspells : Spells (issued (encode .crcInit) (issued (encode (.writeByte wireReadScratchpad))
      (issued (encode (.select index)) s))) (x.bytes.take 8 ++ [x.crc]) := fun j hj k hk => by
    rw [hinit.level, ← Nat.add_assoc]
    exact hx j hj k hk
  obtain ⟨t, ht, htook, hlast, hfold⟩ := readCheckedBytes_of_spells hinit.busy hinit.err hspells
  rw [hacc] at hfold
  have hlen : readCheckedBytes 8 (issued (encode .crcInit) (issued (encode (.writeByte wireReadScratchpad))
      (issued (encode (.select index)) s))) = (x.bytes.take 8, t) := ht
  obtain ⟨hresult, herr, hvalid, hregistry⟩ := checkScratchpad_of_spells htook.busy hlast hfold
  have hrun : readTemperatureRaw index s = checkScratchpad (x.bytes.take 8) t := by
    simp only [readTemperatureRaw, hselect.err, if_true, hlen]
  rw [hrun]
  exact ⟨hresult, herr, hvalid, hregistry.trans (htook.registry.trans hinit.registry)⟩

/-! ## Lines that stand still (R284, R285) -/

/-- READ_BYTE where every answer is `b`. -/
theorem exec_readByte_of_constant {s : State} {b : Bool} {v : Byte} (h : ∀ k < 8, level s k = b)
    (hv : ∀ k < 8, v.getLsbD k = b) : ∃ t, exec .readByte s = .next t ∧ t.err = 0 ∧ t.data = v := by
  obtain ⟨t, ht, hdata, hshown⟩ := exec_readByte_forgetLocal s
  exact ⟨t, ht, congrArg State.err hshown,
    BitVec.eq_of_getLsbD_eq fun k hk => (hdata k hk).trans ((h k hk).trans (hv k hk).symm)⟩

theorem exec_reset_of_presence {s : State} (h0 : level s 0 = false) : ∃ t, exec .reset s = .next t ∧ t.err = 0 := by
  obtain ⟨t, ht⟩ := exec_isNext .reset s
  obtain ⟨sl, ⟨_, he⟩, _⟩ := exec_report ht
  rw [h0] at he
  exact ⟨t, ht, he⟩

/-- READ_ADDRESS of an address that passes its check (R203). -/
theorem exec_readAddress_of_valid {s : State} {a : Address} (h0 : level s 0 = false)
    (h : ∀ p < 64, level s (1 + p) = bitAt a p) (hcrc : crc8 (lowBytes a) = byteOf a 7) :
    ∃ t, exec .readAddress s = .next t ∧ t.err = 0 ∧ t.registry = [a] ∧ t.crcValid = true := by
  obtain ⟨t, ht, hshown⟩ := exec_readAddress_of_presence h0 h
  exact ⟨t, ht, (congrArg State.err hshown).trans (if_pos hcrc), (congrArg State.registry hshown).trans (if_pos hcrc),
    (congrArg State.crcValid hshown).trans (decide_eq_true hcrc)⟩

/-- READ_ADDRESS reads the zero address from a line stuck low, and finds it valid. -/
theorem exec_readAddress_of_low {s : State} (h : ∀ k < 65, level s k = false) :
    ∃ t, exec .readAddress s = .next t ∧ t.err = 0 ∧ t.registry = [0] ∧ t.crcValid = true := by
  have hbyte : byteOf 0 7 = 0 := rfl
  exact exec_readAddress_of_valid (h 0 (by omega)) (fun p hp => (h (1 + p) (by omega)).trans (by simp [bitAt]))
    ((crc8_replicate_zero 7).trans hbyte.symm)

theorem exec_select_of_low {s : State} {index : Byte} (hcount : index.toNat < regCount s) (h0 : level s 0 = false) :
    ∃ t, exec (.select index) s = .next t ∧ t.err = 0 := by
  obtain ⟨a, ha⟩ := Option.isSome_iff_exists.mp ((lookup_isSome_iff index s).mpr hcount)
  obtain ⟨t, ht, hshown⟩ := exec_select_of_presence ha h0
  exact ⟨t, ht, congrArg State.err hshown⟩

/-- The scratchpad of a line stuck low. -/
def zeroScratchpad : Scratchpad := ⟨0, 0, 0, 0, 0, 0, 0, 0, 0⟩

theorem zeroScratchpad_valid : zeroScratchpad.valid = true :=
  beq_iff_eq.mpr (crc8_replicate_zero 8)

theorem zeroScratchpad_bit {j : Nat} (hj : j < 9) (k : Nat) : (zeroScratchpad.bytes.getD j 0).getLsbD k = false := by
  have hbytes : zeroScratchpad.bytes = List.replicate 9 0 := rfl
  rw [hbytes, List.getD_replicate _ hj]
  exact BitVec.getLsbD_zero

/-- Settles O49: the commands one by one, SEARCH by `Searched.full_of_stuckLow`. -/
theorem stuckAndIdleLines : Obligations.StuckAndIdleLines := by
  unfold Obligations.StuckAndIdleLines
  refine ⟨fun s h => ?_, fun s index hcount h0 => exec_select_of_low hcount h0, fun s hd h => ?_,
    fun s index hidle hcount h => ?_, fun s h => ?_⟩
  · obtain ⟨t, ht, hterr⟩ := exec_reset_of_presence (h 0 (by omega))
    obtain ⟨u, hu, huerr, hureg, huvalid⟩ := exec_readAddress_of_low h
    obtain ⟨v, hv, hverr, hvdata⟩ := exec_readByte_of_constant (v := 0x00) (fun k hk => h k (by omega))
      (fun k _ => BitVec.getLsbD_zero)
    exact ⟨t, u, v, ht, hterr, hu, huerr, hureg, huvalid, hv, hverr, hvdata⟩
  · obtain ⟨t, ht⟩ := exec_isNext .search s
    obtain ⟨sl, ⟨passes, tail, rfl, hsearched⟩, hbus⟩ := exec_report ht
    obtain ⟨he, _, _, hcount⟩ := hsearched.full_of_stuckLow hbus h hd
    exact ⟨t, ht, he, hcount⟩
  · obtain ⟨hresult, _⟩ := readTemperatureRawChecksTheScratchpad s index zeroScratchpad hidle hcount (h 0 (by omega))
      (fun j hj k hk => (h _ (by omega)).trans (zeroScratchpad_bit hj k).symm)
    rw [hresult, zeroScratchpad_valid]
    rfl
  · obtain ⟨t, ht, hshown⟩ := exec_readBit_forgetLocal s
    obtain ⟨u, hu, huerr, hudata⟩ := exec_readByte_of_constant (v := 0xFF) h (by decide)
    have hdata := congrArg State.data hshown
    refine ⟨t, u, ht, congrArg State.err hshown, hdata.trans ?_, hu, huerr, hudata⟩
    simp only [forgetLocal_data, finish_data]
    rw [h 0 (by omega)]
    rfl

end Sys2Proof.Machine
end

section
/-! PROOFS. Family other, the ideal bus (95_test_vectors.md section 2): what its samples say about the slaves,
slot by slot; SELECT and READ_ADDRESS on it. -/

namespace Sys2Proof.Machine

/-! ## Slots on the bus -/

theorem busRun_nil {b c : Bus} (h : busRun b [] = some c) : c = b :=
  (Option.some.inj h).symm

theorem busRun_append {b c : Bus} {x y : List Slot} (h : busRun b (x ++ y) = some c) :
    ∃ d, busRun b x = some d ∧ busRun d y = some c := by
  rw [busRun, List.foldlM_append] at h
  exact Option.bind_eq_some_iff.mp h

theorem busRun_cons {b c : Bus} {x : Slot} {y : List Slot} (h : busRun b (x :: y) = some c) :
    ∃ d, busSlot b x = some d ∧ busRun d y = some c := by
  rw [busRun, List.foldlM_cons] at h
  exact Option.bind_eq_some_iff.mp h

theorem busSlot_rst {b c : Bus} {p : Bool} (h : busSlot b (.rst p) = some c) :
    p = busPresence b ∧ c = busReset b := by
  simp only [busSlot, Option.ite_none_right_eq_some, Option.some.injEq] at h
  exact ⟨h.1, h.2.symm⟩

theorem busSlot_w {b c : Bus} {v : Bool} (h : busSlot b (.w v) = some c) : c = busWrite v b :=
  (Option.some.inj h).symm

theorem busSlot_r {b c : Bus} {l : Bool} (h : busSlot b (.r l) = some c) : l = busLevel b ∧ c = busRead b := by
  simp only [busSlot, Option.ite_none_right_eq_some, Option.some.injEq] at h
  exact ⟨h.1, h.2.symm⟩

/-- A bit shifted into the byte the bus collects. -/
def collectBit (v : Byte) (c : Bool) : Byte := (v >>> 1) ||| (if c then 0x80#8 else 0#8)

theorem busRun_cons_w (v : Bool) (b : Bus) (rest : List Slot) :
    busRun b (.w v :: rest) = busRun (busWrite v b) rest := rfl

/-- The bits of a command byte but the last. -/
theorem busRun_collect {bits : List Bool} {b : Bus} (hm : b.mode = .cmd) (hc : b.collected + bits.length < 8)
    (rest : List Slot) : busRun b (bits.map .w ++ rest) =
      busRun { b with shift := bits.foldl collectBit b.shift, collected := b.collected + bits.length } rest := by
  induction bits generalizing b with
  | nil => rfl
  | cons v bits ih =>
    rw [List.length_cons] at hc ⊢
    have hwrite : busWrite v b = busCollect v b := by
      simp only [busWrite, hm]
      exact if_neg (by simp only [busCollect]; omega)
    rw [List.map_cons, List.cons_append, busRun_cons_w, hwrite,
      ih (b := busCollect v b) hm (by simp only [busCollect]; omega), Nat.add_comm bits.length, ← Nat.add_assoc]
    rfl

/-- The bus after a pulse and a command byte that selects `m`. -/
def busIn (m : BusMode) (b : Bus) : Bus := { busReset b with mode := m }

/-- The eight bits of a command byte after a pulse. -/
theorem busRun_commandBits (bits : List Bool) (hlen : bits.length = 7) (last : Bool) (b : Bus) :
    busRun (busReset b) (bits.map .w ++ [.w last]) =
      some (busIn (modeOf (collectBit (bits.foldl collectBit 0) last)) b) := by
  have hcount : (busReset b).collected + bits.length = 7 := (Nat.zero_add _).trans hlen
  rw [busRun_collect rfl (by omega), busRun_cons_w, hcount]
  rfl

theorem busRun_searchRom (b : Bus) : busRun (busReset b) (byteSlots 0xF0) = some (busIn .search b) :=
  busRun_commandBits [false, false, false, false, true, true, true] rfl true b

theorem busRun_readRom (b : Bus) : busRun (busReset b) (byteSlots wireReadRom) = some (busIn .readRom b) :=
  busRun_commandBits [true, true, false, false, true, true, false] rfl false b

theorem busRun_matchRom (b : Bus) : busRun (busReset b) (byteSlots wireMatchRom) = some (busIn .matchRom b) :=
  busRun_commandBits [true, false, true, false, true, false, true] rfl false b

/-- A pulse that somebody answers, a command byte, and what follows. -/
theorem busRun_start {m : BusMode} {v : Byte} {p : Bool} {b c : Bus} {rest : List Slot}
    (hv : busRun (busReset b) (byteSlots v) = some (busIn m b))
    (h : busRun b ([.rst p] ++ byteSlots v ++ rest) = some c) :
    p = busPresence b ∧ busRun (busIn m b) rest = some c := by
  rw [List.append_assoc, List.singleton_append] at h
  obtain ⟨d, hd, h⟩ := busRun_cons h
  obtain ⟨hp, rfl⟩ := busSlot_rst hd
  obtain ⟨e, he, h⟩ := busRun_append h
  cases hv.symm.trans he
  exact ⟨hp, h⟩

/-- One more position of the 64. -/
theorem busAdvance_of_lt {b : Bus} (h : b.pos + 1 < 64) : busAdvance b = { b with pos := b.pos + 1, phase := 0 } :=
  if_neg (Nat.ne_of_lt h)

theorem busAdvance_slaves (b : Bus) : (busAdvance b).slaves = b.slaves := by
  unfold busAdvance
  split <;> rfl

theorem busAdvance_active (b : Bus) : (busAdvance b).active = b.active := by
  unfold busAdvance
  split <;> rfl

theorem busAdvance_mode_of_last {b : Bus} (h : b.pos + 1 = 64) : (busAdvance b).mode = .func := by
  rw [busAdvance, if_pos h]

theorem wiredAnd_eq_true {active : List Slave} {f : Slave → Bool} :
    wiredAnd active f = true ↔ ∀ y ∈ active, f y = true :=
  List.all_eq_true

/-! ## MATCH ROM: SELECT -/

/-- The bits of an address from position `p` on, written to slaves that match them. -/
theorem busRun_matchBits {a : Address} {n : Nat} {b c : Bus} (hm : b.mode = .matchRom) (hpos : b.pos + (n + 1) = 64)
    (h : busRun b ((List.range' b.pos (n + 1)).map fun p => .w (bitAt a p)) = some c) :
    c.mode = .func ∧
      c.active = b.active.filter fun y => (List.range' b.pos (n + 1)).all fun p => bitAt y.addr p == bitAt a p := by
  induction n generalizing b with
  | zero =>
    obtain ⟨d, hd, hrest⟩ := busRun_cons h
    cases busRun_nil hrest
    have hwrite : busWrite (bitAt a b.pos) b = busAdvance (busPrune (bitAt a b.pos) b) := by simp only [busWrite, hm]
    cases (busSlot_w hd).trans hwrite
    refine ⟨busAdvance_mode_of_last hpos, (busAdvance_active _).trans ?_⟩
    simp [busPrune]
  | succ n ih =>
    rw [List.range'_succ] at h
    obtain ⟨d, hd, hrest⟩ := busRun_cons h
    have hwrite : busWrite (bitAt a b.pos) b = { busPrune (bitAt a b.pos) b with pos := b.pos + 1, phase := 0 } := by
      simp only [busWrite, hm]
      exact busAdvance_of_lt (by simp only [busPrune]; omega)
    cases (busSlot_w hd).trans hwrite
    obtain ⟨hmode, hactive⟩ := ih (b := { busPrune (bitAt a b.pos) b with pos := b.pos + 1, phase := 0 }) hm
      (by simp only; omega) hrest
    have hall (y : Slave) : ((List.range' b.pos (n + 1 + 1)).all fun p => bitAt y.addr p == bitAt a p) =
        (((List.range' (b.pos + 1) (n + 1)).all fun p => bitAt y.addr p == bitAt a p) &&
          bitAt y.addr b.pos == bitAt a b.pos) := by
      rw [List.range'_succ, List.all_cons, Bool.and_comm]
    simp only [hall]
    exact ⟨hmode, hactive.trans List.filter_filter⟩

theorem all_range_bitAt_eq (a y : Address) :
    ((List.range' 0 64).all fun p => bitAt y p == bitAt a p) = (y == a) := by
  rw [Bool.eq_iff_iff, List.all_eq_true, beq_iff_eq]
  refine ⟨fun h => bitAt_ext fun p hp => beq_iff_eq.mp (h p (by simp; omega)), fun h p _ => ?_⟩
  rw [h, beq_self_eq_true]

/-- The slots of a command are determined by its trace. -/
theorem SentSlots.unique {s t : State} {x y : List Slot} (hx : SentSlots s t x) (hy : SentSlots s t y) : x = y :=
  afterSlots_injective (hx.symm.trans hy)

/-- Settles O32: each of the 64 bits keeps the slaves that have it. -/
theorem selectLeavesOnlyTheAddressedSlaveActive : Obligations.SelectLeavesOnlyTheAddressedSlaveActive := by
  unfold Obligations.SelectLeavesOnlyTheAddressedSlaveActive
  intro s t i a b c sl ha ht hsl hbus herr
  obtain ⟨sl', hreport, hon⟩ := exec_report ht
  cases hsl.unique hon.trace
  have hl : lookup i s = some a := ha
  simp only [CommandReport, hl] at hreport
  rcases hreport with ⟨_, he⟩ | ⟨rfl, _⟩
  · rw [herr] at he
    cases he
  · obtain ⟨_, hrun⟩ := busRun_start (busRun_matchRom b) hbus
    rw [addressSlots, List.range_eq_range'] at hrun
    obtain ⟨hmode, hactive⟩ := busRun_matchBits (n := 63) (b := busIn .matchRom b) rfl rfl hrun
    refine ⟨hactive.trans ?_, hmode⟩
    exact congrArg (List.filter · b.slaves) (funext fun y => all_range_bitAt_eq a y.addr)

/-! ## READ ROM: READ_ADDRESS -/

/-- The bits a lone slave sends from position `p` on. -/
theorem busRun_readBits {x : Slave} {a : Address} {n : Nat} {b c : Bus} (hm : b.mode = .readRom)
    (hactive : b.active = [x]) (hpos : b.pos + n ≤ 64)
    (h : busRun b ((List.range' b.pos n).map fun p => .r (bitAt a p)) = some c) :
    ∀ p, b.pos ≤ p → p < b.pos + n → bitAt a p = bitAt x.addr p := by
  induction n generalizing b with
  | zero =>
    intro p hp hlt
    omega
  | succ n ih =>
    rw [List.range'_succ] at h
    obtain ⟨d, hd, hrest⟩ := busRun_cons h
    obtain ⟨hlevel, hread⟩ := busSlot_r hd
    have hfirst : bitAt a b.pos = bitAt x.addr b.pos := by
      simpa [busLevel, hm, hactive, wiredAnd] using hlevel
    intro p hp hlt
    rcases Nat.eq_or_lt_of_le hp with rfl | hp
    · exact hfirst
    · have hnext : d = { b with pos := b.pos + 1, phase := 0 } := by
        rw [hread]
        simp only [busRead, hm]
        exact (busAdvance_of_lt (by omega)).trans (by rw [hm])
      cases hnext
      exact ih (b := { b with pos := b.pos + 1, phase := 0 }) hm hactive (by simp only; omega) hrest p hp
        (by simp only; omega)

/-- Settles O33: the 64 samples are the slave's bits. -/
theorem readAddressFindsTheLoneSlave : Obligations.ReadAddressFindsTheLoneSlave := by
  unfold Obligations.ReadAddressFindsTheLoneSlave
  intro s t x b c sl hslaves hvalid ht hsl hbus
  obtain ⟨sl', hreport, hon⟩ := exec_report ht
  cases hsl.unique hon.trace
  have hpresence : busPresence b = false := by
    rw [busPresence, hslaves]
    rfl
  rcases hreport with ⟨rfl, _⟩ | ⟨a, rfl, herr, hregistry, hcrc⟩
  · obtain ⟨d, hd, _⟩ := busRun_cons hbus
    rw [(busSlot_rst hd).1.symm] at hpresence
    cases hpresence
  · obtain ⟨_, hrun⟩ := busRun_start (busRun_readRom b) hbus
    rw [addressReadSlots, List.range_eq_range'] at hrun
    have hbits := busRun_readBits (n := 64) (b := busIn .readRom b) rfl hslaves (Nat.le_refl 64) hrun
    have hax : a = x.addr := bitAt_ext fun p hp => hbits p (Nat.zero_le p) (hp.trans_eq (Nat.zero_add 64).symm)
    subst hax
    have hpass : crc8 (lowBytes x.addr) = byteOf x.addr 7 := of_decide_eq_true hvalid
    exact ⟨herr.trans (if_pos hpass), hregistry.trans (if_pos hpass), hcrc.trans hvalid⟩

/-! ## SEARCH ROM: the positions of a pass -/

/-- The bits of `a` from position `p` on are the first `n` the pass wrote. -/
def AgreesFrom (p : Nat) (xs : List Triplet) (n : Nat) (a : Address) : Prop :=
  ∀ q < n, bitAt a (p + q) = writtenAt xs q

/-- The pairs of a pass are what slaves with these addresses give from position `p` on: at each position those
take part that agree with what was written before it (R76, R190). -/
def AnsweredFrom (p : Nat) (addrs : List Address) (xs : List Triplet) : Prop :=
  ∀ q x, xs[q]? = some x →
    (x.id = true ↔ ∀ a ∈ addrs, AgreesFrom p xs q a → bitAt a (p + q) = true) ∧
    (x.cmp = true ↔ ∀ a ∈ addrs, AgreesFrom p xs q a → bitAt a (p + q) = false)

/-- The addresses of the slaves that still take part. -/
def activeAddresses (b : Bus) : List Address := b.active.map Slave.addr

/-- A bus at the beginning of a position of SEARCH. -/
structure Searching (b : Bus) : Prop where
  mode : b.mode = .search
  phase : b.phase = 0

theorem busRun_pair {b c : Bus} {id cmp : Bool} (hb : Searching b) (h : busRun b [.r id, .r cmp] = some c) :
    (id = true ↔ ∀ a ∈ activeAddresses b, bitAt a b.pos = true) ∧
    (cmp = true ↔ ∀ a ∈ activeAddresses b, bitAt a b.pos = false) ∧ c = { b with phase := 2 } := by
  obtain ⟨d, hd, h⟩ := busRun_cons h
  obtain ⟨hid, rfl⟩ := busSlot_r hd
  obtain ⟨e, he, h⟩ := busRun_cons h
  obtain ⟨hcmp, rfl⟩ := busSlot_r he
  cases busRun_nil h
  have hread : busRead b = { b with phase := 1 } := by simp only [busRead, hb.mode, hb.phase]
  rw [hread] at hcmp
  simp only [busLevel, hb.mode, hb.phase, if_true] at hid
  simp only [busLevel, hb.mode, Nat.one_ne_zero, if_true, if_false] at hcmp
  refine ⟨?_, ?_, ?_⟩
  · rw [hid, wiredAnd_eq_true, activeAddresses, List.forall_mem_map]
  · simp only [hcmp, wiredAnd_eq_true, activeAddresses, List.forall_mem_map, Bool.not_eq_true']
  · rw [hread]
    simp only [busRead, hb.mode]

/-- One position: the pair, and those whose bit was written stay. -/
theorem busRun_triplet {b c : Bus} {x : Triplet} (hb : Searching b) (h : busRun b (tripletSlots x) = some c) :
    (x.id = true ↔ ∀ a ∈ activeAddresses b, bitAt a b.pos = true) ∧
    (x.cmp = true ↔ ∀ a ∈ activeAddresses b, bitAt a b.pos = false) ∧
    c = busAdvance (busPrune x.written { b with phase := 2 }) := by
  obtain ⟨d, hd, h⟩ := busRun_append (x := [.r x.id, .r x.cmp]) h
  obtain ⟨hid, hcmp, rfl⟩ := busRun_pair hb hd
  obtain ⟨e, he, h⟩ := busRun_cons h
  cases busRun_nil h
  refine ⟨hid, hcmp, (busSlot_w he).trans ?_⟩
  simp only [busWrite, hb.mode]

theorem mem_activeAddresses_busPrune {b : Bus} {v : Bool} {a : Address} :
    a ∈ activeAddresses (busPrune v b) ↔ a ∈ activeAddresses b ∧ bitAt a b.pos = v := by
  simp only [activeAddresses, busPrune, List.mem_map, List.mem_filter, beq_iff_eq]
  constructor
  · rintro ⟨y, ⟨hy, hbit⟩, rfl⟩
    exact ⟨⟨y, hy, rfl⟩, hbit⟩
  · rintro ⟨⟨y, hy, rfl⟩, hbit⟩
    exact ⟨y, ⟨hy, hbit⟩, rfl⟩

theorem AgreesFrom.zero (p : Nat) (xs : List Triplet) (a : Address) : AgreesFrom p xs 0 a := fun q hq => by omega

theorem agreesFrom_cons_succ {p : Nat} {x : Triplet} {xs : List Triplet} {n : Nat} {a : Address} :
    AgreesFrom p (x :: xs) (n + 1) a ↔ bitAt a p = x.written ∧ AgreesFrom (p + 1) xs n a := by
  constructor
  · refine fun h => ⟨h 0 (Nat.succ_pos n), fun q hq => ?_⟩
    have := h (q + 1) (Nat.succ_lt_succ hq)
    rwa [writtenAt_cons_succ, Nat.add_comm q, ← Nat.add_assoc] at this
  · rintro ⟨hfirst, hrest⟩ q hq
    cases q with
    | zero => exact hfirst
    | succ q =>
      rw [writtenAt_cons_succ, Nat.add_comm q, ← Nat.add_assoc]
      exact hrest q (Nat.lt_of_succ_lt_succ hq)

theorem answeredFrom_cons {p : Nat} {addrs addrs' : List Address} {x : Triplet} {xs : List Triplet}
    (hid : x.id = true ↔ ∀ a ∈ addrs, bitAt a p = true) (hcmp : x.cmp = true ↔ ∀ a ∈ addrs, bitAt a p = false)
    (hmem : ∀ a, a ∈ addrs' ↔ a ∈ addrs ∧ bitAt a p = x.written) (h : AnsweredFrom (p + 1) addrs' xs) :
    AnsweredFrom p addrs (x :: xs) := by
  intro q y hy
  cases q with
  | zero =>
    cases hy
    exact ⟨hid.trans ⟨fun h a ha _ => h a ha, fun h a ha => h a ha (AgreesFrom.zero _ _ _)⟩,
      hcmp.trans ⟨fun h a ha _ => h a ha, fun h a ha => h a ha (AgreesFrom.zero _ _ _)⟩⟩
  | succ q =>
    obtain ⟨hid', hcmp'⟩ := h q y hy
    have hpos : p + 1 + q = p + (q + 1) := by omega
    rw [hpos] at hid' hcmp'
    simp only [hmem, and_imp] at hid' hcmp'
    simp only [agreesFrom_cons_succ, and_imp]
    exact ⟨hid', hcmp'⟩

/-- The bus after the positions `xs`, if they are not all of the 64. -/
structure SearchedUpTo (xs : List Triplet) (b c : Bus) : Prop where
  searching : Searching c
  pos : c.pos = b.pos + xs.length
  active : ∀ a, a ∈ activeAddresses c ↔ a ∈ activeAddresses b ∧ AgreesFrom b.pos xs xs.length a

theorem searchedUpTo_nil {b : Bus} (hb : Searching b) : SearchedUpTo [] b b where
  searching := hb
  pos := rfl
  active _ := (and_iff_left (AgreesFrom.zero _ _ _)).symm

/-- The positions of a pass on the bus. -/
theorem busRun_triplets {xs : List Triplet} {b c : Bus} (hb : Searching b) (hlen : b.pos + xs.length ≤ 64)
    (h : busRun b (xs.flatMap tripletSlots) = some c) :
    AnsweredFrom b.pos (activeAddresses b) xs ∧ c.slaves = b.slaves ∧
      (b.pos + xs.length < 64 → SearchedUpTo xs b c) := by
  induction xs generalizing b with
  | nil =>
    cases busRun_nil h
    exact ⟨fun q x hx => by simp at hx, rfl, fun _ => searchedUpTo_nil hb⟩
  | cons x xs ih =>
    rw [List.length_cons] at hlen ⊢
    obtain ⟨d, hd, hrest⟩ := busRun_append h
    obtain ⟨hid, hcmp, hnext⟩ := busRun_triplet hb hd
    have hmem (a : Address) : a ∈ activeAddresses d ↔ a ∈ activeAddresses b ∧ bitAt a b.pos = x.written := by
      rw [hnext, activeAddresses, busAdvance_active]
      exact mem_activeAddresses_busPrune
    have hslaves : d.slaves = b.slaves := by
      rw [hnext, busAdvance_slaves]
      rfl
    by_cases hlast : b.pos + 1 = 64
    · have hnil : xs = [] := List.eq_nil_of_length_eq_zero (by omega)
      subst hnil
      cases busRun_nil hrest
      exact ⟨answeredFrom_cons hid hcmp hmem (fun q x hx => by simp at hx), hslaves,
        fun hlt => by rw [List.length_nil] at hlt; omega⟩
    · have hd' : d = { busPrune x.written { b with phase := 2 } with pos := b.pos + 1, phase := 0 } :=
        hnext.trans (busAdvance_of_lt (by simp only [busPrune]; omega))
      have hsearching : Searching d := by
        rw [hd']
        exact ⟨hb.mode, rfl⟩
      have hpos : d.pos = b.pos + 1 := by rw [hd']
      obtain ⟨hanswered, hsl, hupTo⟩ := ih hsearching (by omega) hrest
      rw [hpos] at hanswered hupTo
      refine ⟨answeredFrom_cons hid hcmp hmem hanswered, hsl.trans hslaves, fun hlt => ?_⟩
      obtain ⟨hs, hp, hactive⟩ := hupTo (by omega)
      refine ⟨hs, by rw [hp, hpos, List.length_cons]; omega, fun a => ?_⟩
      rw [hactive, hmem, hpos, List.length_cons, agreesFrom_cons_succ, and_assoc]

end Sys2Proof.Machine
end

section
/-! PROOFS. Family other, discovery (R189, R190): the passes of SEARCH on the ideal bus meet the addresses one
after the other, in discovery order. -/

namespace Sys2Proof.Machine

/-! ## Discovery order -/

theorem discoveredBefore_trans {a b c : Address} (hab : discoveredBefore a b) (hbc : discoveredBefore b c) :
    discoveredBefore a c := by
  obtain ⟨p, hp, hagree, ha, hb⟩ := hab
  obtain ⟨q, hq, hagree', hb', hc⟩ := hbc
  rcases Nat.lt_trichotomy p q with hlt | rfl | hgt
  · exact ⟨p, hp, fun r hr => (hagree r hr).trans (hagree' r (hr.trans hlt)), ha, (hagree' p hlt).symm.trans hb⟩
  · rw [hb] at hb'
    cases hb'
  · exact ⟨q, hq, fun r hr => (hagree r (hr.trans hgt)).trans (hagree' r hr), (hagree q hgt).trans hb', hc⟩

theorem discoveredBefore_irrefl (a : Address) : ¬discoveredBefore a a := by
  rintro ⟨p, _, _, h0, h1⟩
  rw [h0] at h1
  cases h1

/-- The lowest position where two addresses differ. -/
theorem exists_first_difference {a b : Address} (h : a ≠ b) :
    ∃ p < 64, (∀ q < p, bitAt a q = bitAt b q) ∧ bitAt a p ≠ bitAt b p := by
  have hex : ∃ p, p < 64 ∧ bitAt a p ≠ bitAt b p := by
    by_contra hnone
    exact h (bitAt_ext fun p hp => Classical.not_not.mp fun hne => hnone ⟨p, hp, hne⟩)
  obtain ⟨hlt, hne⟩ := Nat.find_spec hex
  refine ⟨Nat.find hex, hlt, fun q hq => ?_, hne⟩
  exact Classical.not_not.mp fun hq' => Nat.find_min hex hq ⟨hq.trans hlt, hq'⟩

/-! ## The address a pass writes -/

/-- The address whose bits are what the pass wrote (R181, R186). -/
def passAddress (xs : List Triplet) : Address := BitVec.ofFnLE fun p : Fin 64 => writtenAt xs p

theorem bitAt_passAddress (xs : List Triplet) {p : Nat} (hp : p < 64) : bitAt (passAddress xs) p = writtenAt xs p := by
  rw [bitAt, passAddress, BitVec.getLsbD_ofFnLE, dif_pos hp]

theorem eq_passAddress {xs : List Triplet} {a : Address} (h : ∀ p < 64, bitAt a p = writtenAt xs p) :
    a = passAddress xs :=
  bitAt_ext fun p hp => (h p hp).trans (bitAt_passAddress xs hp).symm

/-- The first `n` bits of `a` are what the pass wrote. -/
def Agrees (xs : List Triplet) (n : Nat) (a : Address) : Prop := ∀ q < n, bitAt a q = writtenAt xs q

/-- The pairs of a pass are those the slaves with these addresses give. -/
def Answered (addrs : List Address) (xs : List Triplet) : Prop :=
  ∀ p x, xs[p]? = some x →
    (x.id = true ↔ ∀ a ∈ addrs, Agrees xs p a → bitAt a p = true) ∧
    (x.cmp = true ↔ ∀ a ∈ addrs, Agrees xs p a → bitAt a p = false)

theorem agreesFrom_zero_iff {xs : List Triplet} {n : Nat} {a : Address} : AgreesFrom 0 xs n a ↔ Agrees xs n a := by
  simp only [AgreesFrom, Agrees, Nat.zero_add]

theorem AnsweredFrom.answered {addrs : List Address} {xs : List Triplet} (h : AnsweredFrom 0 addrs xs) :
    Answered addrs xs := fun p x hx => by
  have := h p x hx
  simpa only [agreesFrom_zero_iff, Nat.zero_add] using this

theorem Agrees.succ {xs : List Triplet} {n : Nat} {a : Address} (h : Agrees xs n a)
    (hn : bitAt a n = writtenAt xs n) : Agrees xs (n + 1) a := fun q hq => by
  rcases Nat.lt_succ_iff_lt_or_eq.mp hq with hlt | rfl
  · exact h q hlt
  · exact hn

section
variable {addrs : List Address} {xs : List Triplet} {p : Nat} {x : Triplet}

/-- Two addresses that both take part and differ at `p` make a collision there. -/
theorem Answered.collision (h : Answered addrs xs) (hx : xs[p]? = some x) {a b : Address} (ha : a ∈ addrs)
    (hb : b ∈ addrs) (hagree : Agrees xs p a) (hagree' : Agrees xs p b) (hne : bitAt a p ≠ bitAt b p) :
    x.id = false ∧ x.cmp = false := by
  obtain ⟨hid, hcmp⟩ := h p x hx
  constructor
  · refine Bool.eq_false_iff.mpr fun ht => hne ?_
    rw [hid.mp ht a ha hagree, hid.mp ht b hb hagree']
  · refine Bool.eq_false_iff.mpr fun ht => hne ?_
    rw [hcmp.mp ht a ha hagree, hcmp.mp ht b hb hagree']

/-- At a collision either bit is somebody's who takes part. -/
theorem Answered.exists_bit_of_collision (h : Answered addrs xs) (hx : xs[p]? = some x) (hid : x.id = false)
    (hcmp : x.cmp = false) (v : Bool) : ∃ a ∈ addrs, Agrees xs p a ∧ bitAt a p = v := by
  obtain ⟨hids, hcmps⟩ := h p x hx
  by_contra hnone
  have hall : ∀ a ∈ addrs, Agrees xs p a → bitAt a p = !v := fun a ha hagree =>
    Bool.eq_not.mpr fun hv => hnone ⟨a, ha, hagree, hv⟩
  cases v with
  | true =>
    rw [hcmps.mpr hall] at hcmp
    cases hcmp
  | false =>
    rw [hids.mpr hall] at hid
    cases hid

/-- Whatever was written, somebody who takes part has that bit, if anybody takes part. -/
theorem Answered.exists_agrees_succ {fork : Nat} {old : Nat → Bool} (h : Answered addrs xs) (hx : xs[p]? = some x)
    (hright : ChoiceFrom fork old p x) (hsome : ∃ a ∈ addrs, Agrees xs p a) :
    ∃ a ∈ addrs, Agrees xs (p + 1) a := by
  obtain ⟨hid, hcmp⟩ := h p x hx
  obtain ⟨a, ha, hagree⟩ := hsome
  have hbit : ∃ a ∈ addrs, Agrees xs p a ∧ bitAt a p = x.written := by
    rcases hright with ⟨hid1, _, hw⟩ | ⟨_, hcmp1, hw⟩ | ⟨hid0, hcmp0, _⟩
    · exact ⟨a, ha, hagree, (hid.mp hid1 a ha hagree).trans hw.symm⟩
    · exact ⟨a, ha, hagree, (hcmp.mp hcmp1 a ha hagree).trans hw.symm⟩
    · exact h.exists_bit_of_collision hx hid0 hcmp0 x.written
  obtain ⟨b, hb, hagree', hbit⟩ := hbit
  exact ⟨b, hb, hagree'.succ (hbit.trans (writtenAt_of_getElem? hx).symm)⟩

theorem Answered.exists_agrees {before : List Triplet} (h : Answered addrs xs) (hright : PassRight before xs)
    (hne : addrs ≠ []) {n : Nat} (hn : n ≤ xs.length) : ∃ a ∈ addrs, Agrees xs n a := by
  induction n with
  | zero =>
    obtain ⟨a, ha⟩ := List.exists_mem_of_ne_nil addrs hne
    exact ⟨a, ha, fun q hq => absurd hq (Nat.not_lt_zero q)⟩
  | succ n ih =>
    obtain ⟨x, hx⟩ : ∃ x, xs[n]? = some x := ⟨_, List.getElem?_eq_getElem hn⟩
    exact h.exists_agrees_succ hx (chosenRight_iff.mp (hright n x hx)) (ih (Nat.le_of_succ_le hn))

/-- A whole pass writes the address of a slave (R189). -/
theorem Answered.passAddress_mem {before : List Triplet} (h : Answered addrs xs) (hright : PassRight before xs)
    (hne : addrs ≠ []) (hlen : xs.length = 64) : passAddress xs ∈ addrs := by
  obtain ⟨a, ha, hagree⟩ := h.exists_agrees hright hne hlen.ge
  exact eq_passAddress hagree ▸ ha

end

/-! ## The next address -/

/-- A whole pass on the slaves with these addresses, after the pass `before`. -/
structure PassOf (addrs : List Address) (before xs : List Triplet) : Prop where
  length : xs.length = 64
  answered : Answered addrs xs
  right : PassRight before xs
  mem : passAddress xs ∈ addrs

theorem agrees_passAddress (xs : List Triplet) {n : Nat} (hn : n ≤ 64) : Agrees xs n (passAddress xs) :=
  fun _ hq => bitAt_passAddress xs (hq.trans_le hn)

/-- Triplets whose pairs go to the same slaves are equal but for the choice. -/
theorem Answered.pair_eq {addrs : List Address} {xs ys : List Triplet} {p : Nat} {x y : Triplet}
    (hxs : Answered addrs xs) (hys : Answered addrs ys) (hx : xs[p]? = some x) (hy : ys[p]? = some y)
    (hsame : ∀ q < p, writtenAt xs q = writtenAt ys q) : x.id = y.id ∧ x.cmp = y.cmp := by
  have hagrees (a : Address) : Agrees xs p a ↔ Agrees ys p a :=
    forall₂_congr fun q hq => by rw [hsame q hq]
  obtain ⟨hid, hcmp⟩ := hxs p x hx
  obtain ⟨hid', hcmp'⟩ := hys p y hy
  simp only [hagrees] at hid hcmp
  exact ⟨Bool.eq_iff_iff.mpr (hid.trans hid'.symm), Bool.eq_iff_iff.mpr (hcmp.trans hcmp'.symm)⟩

/-- Without a collision the choice is the pair's own bit (R176). -/
theorem ChoiceFrom.of_not_collision {fork p : Nat} {old : Nat → Bool} {x : Triplet} (h : ChoiceFrom fork old p x)
    (hx : ¬(x.id = false ∧ x.cmp = false)) : x.written = x.id := by
  rcases h with ⟨hid, _, hw⟩ | ⟨hid, _, hw⟩ | ⟨hid, hcmp, _⟩
  · exact hw.trans hid.symm
  · exact hw.trans hid.symm
  · exact absurd ⟨hid, hcmp⟩ hx

namespace PassOf
variable {addrs : List Address} {before₀ before xs : List Triplet}

theorem exists_triplet (h : PassOf addrs before xs) {p : Nat} (hp : p < 64) :
    ∃ x, xs[p]? = some x ∧ x.written = bitAt (passAddress xs) p := by
  have hx := List.getElem?_eq_getElem (h.length ▸ hp)
  exact ⟨_, hx, (writtenAt_of_getElem? hx).symm.trans (bitAt_passAddress xs hp).symm⟩

/-- Where another address first differs from the one the pass writes, the pass had a collision. -/
theorem collision (h : PassOf addrs before xs) {b : Address} (hb : b ∈ addrs) {p : Nat} (hp : p < 64)
    (hagree : ∀ q < p, bitAt (passAddress xs) q = bitAt b q) (hne : bitAt (passAddress xs) p ≠ bitAt b p) :
    ∃ x, xs[p]? = some x ∧ x.written = bitAt (passAddress xs) p ∧ x.id = false ∧ x.cmp = false := by
  obtain ⟨x, hx, hw⟩ := h.exists_triplet hp
  have hb' : Agrees xs p b := fun q hq => (hagree q hq).symm.trans (bitAt_passAddress xs (hq.trans hp))
  exact ⟨x, hx, hw, h.answered.collision hx h.mem hb (agrees_passAddress xs hp.le) hb' hne⟩

/-- Beyond the fork a pass goes the 0 way, so it writes the first of the addresses that agree up to there. -/
theorem least_from (h : PassOf addrs before xs) {n : Nat} (hn : forkLeft before ≤ n) {b : Address} (hb : b ∈ addrs)
    (hagree : Agrees xs n b) : b = passAddress xs ∨ discoveredBefore (passAddress xs) b := by
  by_cases heq : passAddress xs = b
  · exact .inl heq.symm
  · obtain ⟨p, hp, hsame, hne⟩ := exists_first_difference heq
    obtain ⟨x, hx, hw, hid, hcmp⟩ := h.collision hb hp hsame hne
    have hpn : n ≤ p := Nat.le_of_not_lt fun hlt =>
      hne ((bitAt_passAddress xs hp).trans (hagree p hlt).symm)
    have hzero : x.written = false := by
      rw [(chosenRight_iff.mp (h.right p x hx)).of_collision hid hcmp, if_neg (by omega), if_neg (by omega)]
    rw [← hw, hzero] at hne
    exact .inr ⟨p, hp, hsame, hw.symm.trans hzero, Bool.eq_true_of_not_eq_false hne.symm⟩

/-- An address after the one the pass writes: the pass went the 0 way at a collision where they first differ. -/
theorem zeroAtCollision_of_later (h : PassOf addrs before xs) {b : Address} (hb : b ∈ addrs) {p : Nat} (hp : p < 64)
    (hagree : ∀ q < p, bitAt (passAddress xs) q = bitAt b q) (h0 : bitAt (passAddress xs) p = false)
    (h1 : bitAt b p = true) : ∃ x, xs[p]? = some x ∧ x.zeroAtCollision = true := by
  obtain ⟨x, hx, hw, hid, hcmp⟩ := h.collision hb hp hagree (by simp [h0, h1])
  refine ⟨x, hx, ?_⟩
  rw [zeroAtCollision_of_low ⟨hid, hcmp⟩, hw, h0]
  rfl

/-- A pass that leaves no fork has written the last address. -/
theorem last (h : PassOf addrs before xs) (hfork : forkLeft xs = 0) {b : Address} (hb : b ∈ addrs) :
    ¬discoveredBefore (passAddress xs) b := by
  rintro ⟨p, hp, hagree, h0, h1⟩
  obtain ⟨x, hx, hzero⟩ := h.zeroAtCollision_of_later hb hp hagree h0 h1
  rw [zeroAtCollision_of_forkLeft hfork x (List.mem_of_getElem? hx)] at hzero
  cases hzero

/-- Below the fork a pass repeats the one before (R178). -/
theorem writtenAt_eq (hprev : PassOf addrs before₀ before) (h : PassOf addrs before xs) {n : Nat}
    (hn : n < forkLeft before) : ∀ p < n, writtenAt xs p = writtenAt before p := by
  induction n with
  | zero => exact fun p hp => absurd hp (Nat.not_lt_zero p)
  | succ n ih =>
    have hsame := ih (Nat.lt_of_succ_lt hn)
    intro p hp
    rcases Nat.lt_succ_iff_lt_or_eq.mp hp with hlt | rfl
    · exact hsame p hlt
    · by_cases hp64 : p < 64
      · obtain ⟨x, hx, _⟩ := h.exists_triplet hp64
        obtain ⟨y, hy, _⟩ := hprev.exists_triplet hp64
        obtain ⟨hid, hcmp⟩ := h.answered.pair_eq hprev.answered hx hy hsame
        have hxright := chosenRight_iff.mp (h.right p _ hx)
        have hyright := chosenRight_iff.mp (hprev.right p _ hy)
        rw [writtenAt_of_getElem? hx]
        by_cases hc : x.id = false ∧ x.cmp = false
        · rw [hxright.of_collision hc.1 hc.2, if_neg (by omega), if_pos hn]
        · rw [writtenAt_of_getElem? hy, hxright.of_not_collision hc,
            hyright.of_not_collision (by rwa [← hid, ← hcmp]), hid]
      · rw [writtenAt, writtenAt, List.getElem?_eq_none (by rw [h.length]; omega),
          List.getElem?_eq_none (by rw [hprev.length]; omega)]

/-- The pass after one that left a fork writes the next address (R190). -/
theorem next (hprev : PassOf addrs before₀ before) (h : PassOf addrs before xs) (hfork : forkLeft before ≠ 0) :
    discoveredBefore (passAddress before) (passAddress xs) ∧
      ∀ b ∈ addrs, discoveredBefore (passAddress before) b →
        b = passAddress xs ∨ discoveredBefore (passAddress xs) b := by
  rcases forkLeft_cases before with ⟨hf, _⟩ | ⟨q, y, hf, hy, hyzero, hlater⟩
  · exact absurd hf hfork
  · have hq : q < 64 := hprev.length ▸ (List.getElem?_eq_some_iff.mp hy).1
    have hsame := hprev.writtenAt_eq h (n := q) (by omega)
    have hbits : ∀ r < q, bitAt (passAddress before) r = bitAt (passAddress xs) r := fun r hr => by
      rw [bitAt_passAddress _ (hr.trans hq), bitAt_passAddress _ (hr.trans hq), hsame r hr]
    obtain ⟨x, hx, hxw⟩ := h.exists_triplet hq
    have hzero : (y.id = false ∧ y.cmp = false) ∧ y.written = false := by
      simpa [Triplet.zeroAtCollision] using hyzero
    obtain ⟨⟨hyid, hycmp⟩, hyw⟩ := hzero
    obtain ⟨hid, hcmp⟩ := h.answered.pair_eq hprev.answered hx hy hsame
    have hone : x.written = true := by
      rw [(chosenRight_iff.mp (h.right q x hx)).of_collision (hid.trans hyid) (hcmp.trans hycmp), if_pos hf.symm]
    have h0 : bitAt (passAddress before) q = false := by
      rw [bitAt_passAddress _ hq, writtenAt_of_getElem? hy, hyw]
    have h1 : bitAt (passAddress xs) q = true := hxw.symm.trans hone
    refine ⟨⟨q, hq, hbits, h0, h1⟩, ?_⟩
    rintro b hb ⟨r, hr, hagree, hb0, hb1⟩
    obtain ⟨z, hz, hzzero⟩ := hprev.zeroAtCollision_of_later hb hr hagree hb0 hb1
    rcases Nat.lt_trichotomy r q with hlt | rfl | hgt
    · exact .inr ⟨r, hr, fun k hk => (hbits k (hk.trans hlt)).symm.trans (hagree k hk),
        (hbits r hlt).symm.trans hb0, hb1⟩
    · refine h.least_from hf.le hb (Agrees.succ (fun k hk => ?_) ?_)
      · rw [← hagree k hk, hbits k hk, bitAt_passAddress _ (hk.trans hq)]
      · rw [hb1, ← h1, bitAt_passAddress _ hq]
    · rw [hlater r z hgt hz] at hzzero
      cases hzzero

end PassOf

/-! ## All passes -/

/-- The passes after `before` go on in discovery order, and pass over no address. -/
theorem passesFrom_discovery {addrs : List Address} {before₀ before : List Triplet} {passes : List (List Triplet)}
    (h : PassesFrom before passes) (hprev : PassOf addrs before₀ before) (hne : addrs ≠ [])
    (hfork : passes ≠ [] → forkLeft before ≠ 0) (hanswered : ∀ xs ∈ passes, Answered addrs xs) :
    ((before :: passes).map passAddress).Pairwise discoveredBefore ∧
      (∀ xs ∈ passes, passAddress xs ∈ addrs) ∧
      ∀ b ∈ addrs, discoveredBefore (passAddress before) b → forkLeft (lastPass before passes) = 0 →
        b ∈ passes.map passAddress := by
  induction passes generalizing before₀ before with
  | nil =>
    refine ⟨List.pairwise_singleton _ _, by simp, fun b hb hlater hlast => ?_⟩
    exact absurd hlater (hprev.last hlast hb)
  | cons xs passes ih =>
    obtain ⟨hlen, hright, hforkxs, hrest⟩ := h
    have hans := hanswered xs List.mem_cons_self
    have hxs : PassOf addrs before xs := ⟨hlen, hans, hright, hans.passAddress_mem hright hne hlen⟩
    obtain ⟨hpairwise, hmem, hall⟩ := ih hrest hxs hforkxs fun ys hys => hanswered ys (List.mem_cons_of_mem _ hys)
    obtain ⟨hlt, hleast⟩ := hprev.next hxs (hfork (List.cons_ne_nil _ _))
    refine ⟨?_, List.forall_mem_cons.mpr ⟨hxs.mem, hmem⟩, fun b hb hlater hlast => ?_⟩
    · rw [List.map_cons, List.pairwise_cons]
      refine ⟨fun b hb => ?_, hpairwise⟩
      rcases List.mem_cons.mp hb with rfl | hb
      · exact hlt
      · exact discoveredBefore_trans hlt ((List.pairwise_cons.mp hpairwise).1 b hb)
    · rcases hleast b hb hlater with rfl | hlater'
      · exact List.mem_cons_self
      · exact List.mem_cons_of_mem _ (hall b hb hlater' hlast)

/-- The passes of a SEARCH write addresses of slaves in discovery order, and all of them if no fork is left. -/
theorem PassesFrom.discovery {addrs : List Address} {passes : List (List Triplet)} (h : PassesFrom [] passes)
    (hne : addrs ≠ []) (hanswered : ∀ xs ∈ passes, Answered addrs xs) :
    (passes.map passAddress).Pairwise discoveredBefore ∧ (∀ a ∈ passes.map passAddress, a ∈ addrs) ∧
      (passes ≠ [] → forkLeft (lastPass [] passes) = 0 → ∀ b ∈ addrs, b ∈ passes.map passAddress) := by
  cases passes with
  | nil => exact ⟨List.Pairwise.nil, by simp, fun hne => absurd rfl hne⟩
  | cons xs passes =>
    obtain ⟨hlen, hright, hfork, hrest⟩ := h
    have hans := hanswered xs List.mem_cons_self
    have hxs : PassOf addrs [] xs := ⟨hlen, hans, hright, hans.passAddress_mem hright hne hlen⟩
    obtain ⟨hpairwise, hmem, hall⟩ := passesFrom_discovery hrest hxs hne hfork
      fun ys hys => hanswered ys (List.mem_cons_of_mem _ hys)
    refine ⟨hpairwise, List.forall_mem_map.mpr (List.forall_mem_cons.mpr ⟨hxs.mem, hmem⟩), fun _ hlast b hb => ?_⟩
    have hfirst : forkLeft [] ≤ 0 := Nat.le_refl 0
    rcases hxs.least_from hfirst hb (fun q hq => absurd hq (Nat.not_lt_zero q)) with rfl | hlater
    · exact List.mem_cons_self
    · exact List.mem_cons_of_mem _ (hall b hb hlater hlast)

/-! ## SEARCH on the bus -/

theorem busPresence_eq_false {b : Bus} (h : b.slaves ≠ []) : busPresence b = false := by
  rw [busPresence, List.isEmpty_eq_false_iff]
  exact h

theorem searching_busIn (b : Bus) : Searching (busIn .search b) := ⟨rfl, rfl⟩

/-- The beginning of a pass on the bus. -/
theorem busRun_passSlots {xs : List Triplet} {b c : Bus} {rest : List Slot} (hlen : xs.length ≤ 64)
    (h : busRun b (passSlots xs ++ rest) = some c) :
    ∃ d, busRun d rest = some c ∧ Answered (busAddresses b) xs ∧ d.slaves = b.slaves ∧
      (xs.length < 64 → SearchedUpTo xs (busIn .search b) d) := by
  obtain ⟨d, hd, hrest⟩ := busRun_append h
  obtain ⟨_, hrun⟩ := busRun_start (busRun_searchRom b) hd
  have hpos : (busIn .search b).pos = 0 := rfl
  obtain ⟨hanswered, hslaves, hupTo⟩ := busRun_triplets (searching_busIn b) (by rw [hpos]; omega) hrun
  rw [hpos, Nat.zero_add] at hupTo
  exact ⟨d, hrest, hanswered.answered, hslaves, hupTo⟩

theorem busRun_passes {before : List Triplet} {passes : List (List Triplet)} {b c : Bus} {rest : List Slot}
    (h : PassesFrom before passes) (hrun : busRun b (passes.flatMap passSlots ++ rest) = some c) :
    (∀ xs ∈ passes, Answered (busAddresses b) xs) ∧ ∃ d, busRun d rest = some c ∧ d.slaves = b.slaves := by
  induction passes generalizing before b with
  | nil => exact ⟨by simp, b, hrun, rfl⟩
  | cons xs passes ih =>
    obtain ⟨hlen, _, _, hpasses⟩ := h
    rw [List.flatMap_cons, List.append_assoc] at hrun
    obtain ⟨d, hd, hanswered, hslaves, _⟩ := busRun_passSlots hlen.le hrun
    obtain ⟨hmore, e, he, hslaves'⟩ := ih hpasses hd
    have haddrs : busAddresses d = busAddresses b := congrArg (List.map Slave.addr) hslaves
    rw [haddrs] at hmore
    exact ⟨List.forall_mem_cons.mpr ⟨hanswered, hmore⟩, e, he, hslaves'.trans hslaves⟩

/-- On a bus with slaves no pass breaks off: somebody always answers (R177). -/
theorem not_silentTail_on_bus {before : List Triplet} {tail : List Slot} {b c : Bus} (hb : b.slaves ≠ [])
    (h : busRun b tail = some c) : ¬SilentTail before tail := by
  rintro (rfl | ⟨xs, hlen, hright, rfl⟩)
  · obtain ⟨d, hd, _⟩ := busRun_cons h
    have := (busSlot_rst hd).1
    rw [busPresence_eq_false hb] at this
    cases this
  · obtain ⟨d, hd, hanswered, _, hupTo⟩ := busRun_passSlots hlen.le h
    have haddrs : busAddresses b ≠ [] := by simpa [busAddresses] using hb
    obtain ⟨a, ha, hagree⟩ := hanswered.exists_agrees hright haddrs (Nat.le_refl xs.length)
    obtain ⟨hsearching, _, hactive⟩ := hupTo hlen
    have hmem : a ∈ activeAddresses d := (hactive a).mpr ⟨ha, agreesFrom_zero_iff.mpr hagree⟩
    obtain ⟨hid, hcmp, _⟩ := busRun_pair hsearching hd
    have h1 := hid.mp rfl a hmem
    have h0 := hcmp.mp rfl a hmem
    rw [h1] at h0
    cases h0

/-- The registry is what the passes wrote, pass by pass. -/
theorem Produced.registry_eq {passes : List (List Triplet)} {addrs : List Address} (h : Produced passes addrs)
    (hlen : addrs.length = passes.length) : addrs = passes.map passAddress := by
  refine List.ext_getElem (by rw [hlen, List.length_map]) fun k hk _ => ?_
  obtain ⟨xs, hxs, hbits⟩ := h k _ (List.getElem?_eq_getElem hk)
  obtain ⟨_, hget⟩ := List.getElem?_eq_some_iff.mp hxs
  rw [List.getElem_map, hget, eq_passAddress hbits]

/-- Addresses in discovery order are distinct. -/
theorem nodup_of_discovery {addrs : List Address} (h : addrs.Pairwise discoveredBefore) : addrs.Nodup :=
  h.imp fun hab heq => by
    subst heq
    exact discoveredBefore_irrefl _ hab

/-- Settles O36: `PassesFrom.discovery`; there are too few addresses for a full registry, and somebody always
answers. -/
theorem searchFindsEverySlaveOnce : Obligations.SearchFindsEverySlaveOnce := by
  unfold Obligations.SearchFindsEverySlaveOnce
  intro s t b c sl hb hnodup hdepth ht hsl hrun
  obtain ⟨sl', ⟨passes, tail, rfl, hsearched⟩, hon⟩ := exec_report ht
  cases hsl.unique hon.trace
  have haddrs : busAddresses b ≠ [] := by simpa [busAddresses] using hb
  have hcount : (busAddresses b).length = b.slaves.length := List.length_map _
  obtain ⟨hanswered, d, hd, hslaves⟩ := busRun_passes hsearched.right hrun
  obtain ⟨horder, hmem, hall⟩ := hsearched.right.discovery haddrs hanswered
  have hdistinct := nodup_of_discovery horder
  rcases hsearched.ends with ⟨he, rfl, hne, hlen, _, hfork⟩ | ⟨_, _, hlen, _⟩ | ⟨_, _, _, _, htail⟩
  · have hregistry := hsearched.produced.registry_eq hlen
    have hperm : (passes.map passAddress).Perm (busAddresses b) :=
      (List.perm_ext_iff_of_nodup hdistinct hnodup).mpr fun a => ⟨hmem a, hall hne hfork a⟩
    refine ⟨he, hregistry ▸ hperm, hregistry ▸ horder, ?_⟩
    have hpasses : passes.length = b.slaves.length := by
      rw [← hcount, ← hperm.length_eq, List.length_map]
    rw [elapsed_eq hon.trace, List.append_nil, slotsDuration_passes hsearched.right, hpasses]
  · have hle := (List.subperm_of_subset hdistinct hmem).length_le
    rw [List.length_map, hlen, hcount] at hle
    omega
  · exact absurd htail (not_silentTail_on_bus (hslaves ▸ hb) hd)

end Sys2Proof.Machine
end
